-- ==== Sys2Proof/Word.lean ====
section
/-! DEFINITION. The word types of the block and the exact unsigned arithmetic of 00_scope.md R11. -/

namespace Sys2Proof

/-- A host word or an FB request word: 32 bits (30_encoding.md R70, R80). -/
abbrev Word := BitVec 32

/-- A byte: an FB byte, a command byte or a data byte of a panel unit. -/
abbrev Byte := BitVec 8

end Sys2Proof
end

