-- ==== Sys2Proof/Config.lean ====
section
/-! DEFINITION. What an implementation of the block fixes at build time (00_scope.md R8): the FB's size, the row
stride XMAX, the configuration ROM and the poll interval. The open ones are opaque: nothing can be proved of their
values but the constraints the spec gives them. -/

namespace Sys2Proof

/-- The configuration ROM (10_state.md R33): the command bytes and payloads the spec leaves open. -/
structure Rom where
  initData01 : List Byte
  initData0C : List Byte
  initData2C : List Byte
  initData3A : List Byte
  initData3B : List Byte
  initData11 : List Byte
  lutCmd : Byte
  /-- "two fixed 29-byte lookup tables" (R8): the length is part of the type. -/
  lutFull : Vector Byte 29
  lutPartial : Vector Byte 29
  ponCmd : Byte
  ponData : List Byte
  actCmd : Byte
  actData : List Byte
  poffData12 : List Byte
  poffData82 : List Byte
  poffData01 : List Byte
  poffData02 : List Byte
  deriving DecidableEq, Repr, Inhabited

/-- Every payload of the ROM has 0 to 255 bytes (00_scope.md R8; 92_eei_decisions.md, open parameters). -/
def Rom.wf (r : Rom) : Bool :=
  decide (r.initData01.length ≤ 255) && decide (r.initData0C.length ≤ 255) &&
  decide (r.initData2C.length ≤ 255) && decide (r.initData3A.length ≤ 255) &&
  decide (r.initData3B.length ≤ 255) && decide (r.initData11.length ≤ 255) &&
  decide (r.ponData.length ≤ 255) && decide (r.actData.length ≤ 255) &&
  decide (r.poffData12.length ≤ 255) && decide (r.poffData82.length ≤ 255) &&
  decide (r.poffData01.length ≤ 255) && decide (r.poffData02.length ≤ 255)

/-- The capacity of the FB storage in bits (00_scope.md R8; 92_eei_decisions.md D7). -/
def Config.fbMaxBits : Nat := 65024

/-- The FB storage in bytes, FB_MAX_BITS div 8 (10_state.md R27). -/
def Config.fbMaxBytes : Nat := 8128

/-- DESIGN CHOICE (log 4): an arbitrary ROM, of which `Config.rom` keeps at most 255 bytes of each payload. -/
opaque Config.romRaw : Rom

/-- The build-time contents of the ROM (10_state.md R33): every contents that R8 admits, and no more is known. -/
def Config.rom : Rom :=
  { Config.romRaw with
    initData01 := Config.romRaw.initData01.take 255
    initData0C := Config.romRaw.initData0C.take 255
    initData2C := Config.romRaw.initData2C.take 255
    initData3A := Config.romRaw.initData3A.take 255
    initData3B := Config.romRaw.initData3B.take 255
    initData11 := Config.romRaw.initData11.take 255
    ponData := Config.romRaw.ponData.take 255
    actData := Config.romRaw.actData.take 255
    poffData12 := Config.romRaw.poffData12.take 255
    poffData82 := Config.romRaw.poffData82.take 255
    poffData01 := Config.romRaw.poffData01.take 255
    poffData02 := Config.romRaw.poffData02.take 255 }

/-- DESIGN CHOICE (log 4): an arbitrary number below 65535, from which XMAX is made. -/
opaque Config.xmaxLessOne : Fin 65535

/-- XMAX, the fixed row stride, an integer in 1..65535 (00_scope.md R8; 92_eei_decisions.md D5). -/
def Config.xmax : BitVec 16 := BitVec.ofNat 16 (Config.xmaxLessOne.val + 1)

/-- POLL_INTERVAL (00_scope.md R8; 92_eei_decisions.md D40): open and unobservable; no definition reads it. -/
opaque Config.pollInterval : Nat

end Sys2Proof
end

