-- ==== Sys2Proof/Syntax.lean ====
section
/-! DEFINITION. The syntax: one constructor for each of the 33 rows of spec/opcode_table.json, in its order, and the
rows a `U(c, d)` action can stand for. -/

namespace Sys2Proof

/-- The instructions of the block's three encoded interfaces (00_scope.md R3). -/
inductive Instr where
  /-- CREATE w, h (30_encoding.md R72). -/
  | create (w h : BitVec 8)
  /-- SETPIX x, y, on (30_encoding.md R73). -/
  | setpix (x y : BitVec 8) (on : Bool)
  /-- FLUSH.FULL (30_encoding.md R74, MODE 0). -/
  | flushFull
  /-- FLUSH.PARTIAL (30_encoding.md R74, MODE 1). -/
  | flushPartial
  /-- PWRON (30_encoding.md R75). -/
  | pwron
  /-- PWROFF (30_encoding.md R75). -/
  | pwroff
  /-- READFB k (30_encoding.md R76). -/
  | readfb (k : BitVec 13)
  /-- Any host word of no other row (30_encoding.md R78). -/
  | illegal (w : Word)
  /-- FB_CREATE(c) (30_encoding.md R80). -/
  | fbCreate (c : BitVec 24)
  /-- FB_SET_BIT(i, on) (30_encoding.md R80). -/
  | fbSetBit (i : BitVec 24) (on : Bool)
  /-- FB_READ(k) (30_encoding.md R80). -/
  | fbRead (k : BitVec 24)
  /-- Any FB request word of no other row (30_encoding.md R82). -/
  | fbIllegal (w : Word)
  /-- The panel units of 30_encoding.md R85. Their data come from the ROM, MODE, W, H and the FB, not from the host. -/
  | init01
  | init0C
  | init2C
  | init3A
  | init3B
  | init11
  | lut
  | pon
  | act
  | ramXwin
  | ramYwin
  | ramXptr
  | ramYptr
  | writeRam
  | update
  | sync20
  | syncFF
  | poff12
  | poff82
  | poff01
  | poff02
  deriving DecidableEq, Repr

/-- The rows of 30_encoding.md R85 whose unit is fixed when ACTS is built: all but WRITE_RAM, the XFER action
(42_command_protocol.md R150). -/
inductive UnitRow where
  | init01
  | init0C
  | init2C
  | init3A
  | init3B
  | init11
  | lut
  | pon
  | act
  | ramXwin
  | ramYwin
  | ramXptr
  | ramYptr
  | update
  | sync20
  | syncFF
  | poff12
  | poff82
  | poff01
  | poff02
  deriving DecidableEq, Repr

/-- The operation step that emits a unit. "The operation that emits the unit fixes which kind it is" (30_encoding.md
R87): `flush` for the initialise, LUT, addressing, data and update steps, `powerOn` for PON_ACTS, `powerOff` for
POFF_ACTS. -/
inductive Emitter where
  | flush
  | powerOn
  | powerOff
  deriving DecidableEq, Repr

/-- An instruction as its port carries it: a host command word, an FB request word, or the command byte of a panel
unit together with the step that emits it (30_encoding.md R70, R80, R84). -/
inductive Encoded where
  | host (w : Word)
  | fb (w : Word)
  | unit (emitter : Emitter) (c : Byte)
  deriving DecidableEq, Repr

/-- Why the decoder refuses. Only a panel unit can be refused: host and FB words all have a row. -/
inductive DecodeError where
  /-- The byte is the command byte of no unit that this step emits (30_encoding.md R88). -/
  | unknownUnit (emitter : Emitter) (c : Byte)
  deriving DecidableEq, Repr

end Sys2Proof
end

