-- ==== Sys2Proof/WellFormed.lean ====
section
/-! DEFINITION. Which instructions are well formed: `illegal w` and `fbIllegal w` only for words of no other row. Every
other operand may take every value of its field (30_encoding.md R79). The legality of a word is written here from the
FIELDS of R71-R76 and R80 (the operation field and the reserved bits), apart from the decoder's masks. -/

namespace Sys2Proof

/-- A host word is legal when its OP is 1 to 6 and that row's reserved bits are 0 (30_encoding.md R71-R78). -/
def hostWordLegal (w : Word) : Bool :=
  match (w.extractLsb' 28 4).toNat with
  | 1 => decide (w.extractLsb' 16 12 = 0)
  | 2 => decide (w.extractLsb' 17 11 = 0)
  | 3 => decide (w.extractLsb' 1 27 = 0)
  | 4 => decide (w.extractLsb' 0 28 = 0)
  | 5 => decide (w.extractLsb' 0 28 = 0)
  | 6 => decide (w.extractLsb' 13 15 = 0)
  | _ => false

/-- An FB request word is legal when FOP is not 11, bits 29:25 are 0, and ON is 0 unless FOP is 01 (30_encoding.md
R80, R82). -/
def fbWordLegal (w : Word) : Bool :=
  decide (w.extractLsb' 25 5 = 0) &&
  match (w.extractLsb' 30 2).toNat with
  | 0 => decide (w.extractLsb' 24 1 = 0)
  | 1 => true
  | 2 => decide (w.extractLsb' 24 1 = 0)
  | _ => false

/-- The instruction can be written in its encoding. -/
def Instr.wellFormed : Instr → Bool
  | .create _ _ => true
  | .setpix _ _ _ => true
  | .flushFull => true
  | .flushPartial => true
  | .pwron => true
  | .pwroff => true
  | .readfb _ => true
  | .illegal w => !hostWordLegal w
  | .fbCreate _ => true
  | .fbSetBit _ _ => true
  | .fbRead _ => true
  | .fbIllegal w => !fbWordLegal w
  | .init01 => true
  | .init0C => true
  | .init2C => true
  | .init3A => true
  | .init3B => true
  | .init11 => true
  | .lut => true
  | .pon => true
  | .act => true
  | .ramXwin => true
  | .ramYwin => true
  | .ramXptr => true
  | .ramYptr => true
  | .writeRam => true
  | .update => true
  | .sync20 => true
  | .syncFF => true
  | .poff12 => true
  | .poff82 => true
  | .poff01 => true
  | .poff02 => true

end Sys2Proof
end

