-- ==== Sys2Proof/Decode.lean ====
section
/-! DEFINITION. The decoder, total on every word of each port, and after it the encoder, both from the rows of
30_encoding.md (match and mask of R72-R76 and R80, the command bytes of R85). -/

namespace Sys2Proof

/-- `(w AND mask) = match`, the test of a row (30_encoding.md R77). -/
def rowHit (w mask pattern : Word) : Bool := w &&& mask == pattern

/-- The host command word (30_encoding.md R70-R78). A word of no row is ILLEGAL. -/
def decodeHost (w : Word) : Instr :=
  if rowHit w 0xFFFF0000#32 0x10000000#32 then .create (w.extractLsb' 8 8) (w.extractLsb' 0 8)
  else if rowHit w 0xFFFE0000#32 0x20000000#32 then
    .setpix (w.extractLsb' 8 8) (w.extractLsb' 0 8) (w.getLsbD 16)
  else if rowHit w 0xFFFFFFFE#32 0x30000000#32 then (if w.getLsbD 0 then .flushPartial else .flushFull)
  else if rowHit w 0xFFFFFFFF#32 0x40000000#32 then .pwron
  else if rowHit w 0xFFFFFFFF#32 0x50000000#32 then .pwroff
  else if rowHit w 0xFFFFE000#32 0x60000000#32 then .readfb (w.extractLsb' 0 13)
  else .illegal w

/-- The FB request word (30_encoding.md R80, R82). A word of no row is FB_ILLEGAL. -/
def decodeFb (w : Word) : Instr :=
  if rowHit w 0xFF000000#32 0x00000000#32 then .fbCreate (w.extractLsb' 0 24)
  else if rowHit w 0xFE000000#32 0x40000000#32 then .fbSetBit (w.extractLsb' 0 24) (w.getLsbD 24)
  else if rowHit w 0xFF000000#32 0x80000000#32 then .fbRead (w.extractLsb' 0 24)
  else .fbIllegal w

/-- The units with a command byte the spec fixes, by the step that emits them (30_encoding.md R85). -/
def decodeFixedUnit : Emitter → Byte → Option Instr
  | .flush, c =>
    if c = 0x01#8 then some .init01
    else if c = 0x0C#8 then some .init0C
    else if c = 0x2C#8 then some .init2C
    else if c = 0x3A#8 then some .init3A
    else if c = 0x3B#8 then some .init3B
    else if c = 0x11#8 then some .init11
    else if c = 0x44#8 then some .ramXwin
    else if c = 0x45#8 then some .ramYwin
    else if c = 0x4E#8 then some .ramXptr
    else if c = 0x4F#8 then some .ramYptr
    else if c = 0x24#8 then some .writeRam
    else if c = 0x22#8 then some .update
    else if c = 0x20#8 then some .sync20
    else if c = 0xFF#8 then some .syncFF
    else none
  | .powerOn, _ => none
  | .powerOff, c =>
    if c = 0x12#8 then some .poff12
    else if c = 0x82#8 then some .poff82
    else if c = 0x01#8 then some .poff01
    else if c = 0x02#8 then some .poff02
    else none

/-- The units whose command byte is a ROM parameter: LUT of the flush, PON and ACT of the power-on step (30_encoding.md
R85). -/
def decodeOpenUnit (rom : Rom) : Emitter → Byte → Option Instr
  | .flush, c => if c = rom.lutCmd then some .lut else none
  | .powerOn, c => if c = rom.ponCmd then some .pon else if c = rom.actCmd then some .act else none
  | .powerOff, _ => none

/-- A panel unit by its command byte. The block emits units and never decodes them (30_encoding.md R83, R87): this is
the reading of the table's rows. -/
def decodeUnit (rom : Rom) (e : Emitter) (c : Byte) : Except DecodeError Instr :=
  match decodeFixedUnit e c with
  | some i => .ok i
  | none =>
    match decodeOpenUnit rom e c with
    | some i => .ok i
    | none => .error (.unknownUnit e c)

/-- The decoder of the three ports. -/
def decode (rom : Rom) : Encoded → Except DecodeError Instr
  | .host w => .ok (decodeHost w)
  | .fb w => .ok (decodeFb w)
  | .unit e c => decodeUnit rom e c

/-- An instruction as its port carries it (30_encoding.md R72-R76, R80, R85). -/
def encode (rom : Rom) : Instr → Encoded
  | .create w h => .host (0x1000#16 ++ w ++ h)
  | .setpix x y on => .host (0x1000#15 ++ BitVec.ofBool on ++ x ++ y)
  | .flushFull => .host 0x30000000#32
  | .flushPartial => .host 0x30000001#32
  | .pwron => .host 0x40000000#32
  | .pwroff => .host 0x50000000#32
  | .readfb k => .host (0x30000#19 ++ k)
  | .illegal w => .host w
  | .fbCreate c => .fb (0x00#8 ++ c)
  | .fbSetBit i on => .fb (0x20#7 ++ BitVec.ofBool on ++ i)
  | .fbRead k => .fb (0x80#8 ++ k)
  | .fbIllegal w => .fb w
  | .init01 => .unit .flush 0x01#8
  | .init0C => .unit .flush 0x0C#8
  | .init2C => .unit .flush 0x2C#8
  | .init3A => .unit .flush 0x3A#8
  | .init3B => .unit .flush 0x3B#8
  | .init11 => .unit .flush 0x11#8
  | .lut => .unit .flush rom.lutCmd
  | .pon => .unit .powerOn rom.ponCmd
  | .act => .unit .powerOn rom.actCmd
  | .ramXwin => .unit .flush 0x44#8
  | .ramYwin => .unit .flush 0x45#8
  | .ramXptr => .unit .flush 0x4E#8
  | .ramYptr => .unit .flush 0x4F#8
  | .writeRam => .unit .flush 0x24#8
  | .update => .unit .flush 0x22#8
  | .sync20 => .unit .flush 0x20#8
  | .syncFF => .unit .flush 0xFF#8
  | .poff12 => .unit .powerOff 0x12#8
  | .poff82 => .unit .powerOff 0x82#8
  | .poff01 => .unit .powerOff 0x01#8
  | .poff02 => .unit .powerOff 0x02#8

/-- A 32-bit row of the table read as a number. The number alone does not say which of the two ports carries it
(DESIGN CHOICE, log 15): the host port where it has a row there, else the FB port where it has a row there, else an
illegal host word. -/
def decodeTableWord32 (w : Word) : Instr :=
  match decodeHost w with
  | .illegal _ =>
    match decodeFb w with
    | .fbIllegal _ => .illegal w
    | i => i
  | i => i

/-- An 8-bit row of the table, a unit's command byte, whose emitting step the number does not say (DESIGN CHOICE, log
15): the fixed bytes of the flush, then those of the power-off sequence, then the open bytes. -/
def decodeTableByte (c : Byte) : Option Instr :=
  match decodeFixedUnit .flush c with
  | some i => some i
  | none =>
    match decodeFixedUnit .powerOff c with
    | some i => some i
    | none =>
      match decodeOpenUnit Config.rom .flush c with
      | some i => some i
      | none => decodeOpenUnit Config.rom .powerOn c

/-- The instruction the decoder reads from a row of spec/opcode_table.json, whose bits are `w`. A row of no bits is the
word of zeros on the host port. -/
def decodeTableWord (nbits w : Nat) : Option Instr :=
  if nbits = 32 then some (decodeTableWord32 (BitVec.ofNat 32 w))
  else if nbits = 8 then decodeTableByte (BitVec.ofNat 8 w)
  else if nbits = 0 then some (decodeHost 0#32)
  else none

end Sys2Proof
end

