-- ==== Sys2Proof/Machine/State.lean ====
section
/-! DEFINITION. The block's state (10_state.md), the outside world's moves, and the state after reset. All of it is
plain data. -/

namespace Sys2Proof.Machine

/-- Result codes of STATUS.CODE and of an FB response (60_exceptions.md R200). -/
inductive ResultCode where
  | ok
  | invalidSize
  | invalidIndex
  | outOfBounds
  | transportFailure
  | bufferOverrun
  | notConfigured
  | illegalOp
  deriving DecidableEq, Repr

/-- The Refresh Mode, 0 = Full and 1 = Partial (00_scope.md R17; 10_state.md R28). -/
inductive Mode where
  | full
  | partial_
  deriving DecidableEq, Repr

/-- SEQ.PHASE (10_state.md R28). -/
inductive Phase where
  | idle
  | start
  | wait
  | send
  | resp
  deriving DecidableEq, Repr

/-- The panel's answer to a unit, the signal RESP (10_state.md R32). -/
inductive Resp where
  | none
  | ok
  | fail
  deriving DecidableEq, Repr

/-- A panel unit `Unit(c, d)` (30_encoding.md R84). -/
structure PanelUnit where
  cmd : Byte
  data : List Byte
  deriving DecidableEq, Repr

/-- An entry of ACTS (42_command_protocol.md R150). `unit row u` is `U(c, d)`, with the table row it stands for, since
the byte alone does not tell INIT_01 from POFF_01 (30_encoding.md R87; log 12). -/
inductive Action where
  | unit (row : UnitRow) (u : PanelUnit)
  | waitOnly
  | xfer
  deriving DecidableEq, Repr

/-- An event of the panel trace (10_state.md R32). -/
inductive PanelEvent where
  | sent (c : Byte) (d : List Byte)
  | ok
  | fail
  deriving DecidableEq, Repr

/-- STATUS (10_state.md R24): its fields. The reserved bits have no storage and read 0. -/
structure Status where
  ready : Bool
  configured : Bool
  wc : Bool
  cl : Bool
  code : BitVec 4
  rdata : Byte
  deriving DecidableEq, Repr

/-- CFG (10_state.md R26). -/
structure Cfg where
  configured : Bool
  w : BitVec 8
  h : BitVec 8
  deriving DecidableEq, Repr

/-- The FB storage: (byte index, byte) pairs, indices strictly rising and below FB_MAX_BYTES. An index that is not
listed has no value: "unspecified" (10_state.md R27; log 5). -/
abbrev Memory := List Host.Cell

/-- The canonical form of the storage. No value stands for an unlisted index, so no listed pair repeats one. -/
def Memory.wf (m : Memory) : Bool :=
  decide (m.Pairwise (fun a b => a.1 < b.1)) && m.all (fun c => decide (c.1 < Config.fbMaxBytes))

/-- FB (10_state.md R27). -/
structure Fb where
  cap : BitVec 16
  bytes : Memory
  deriving DecidableEq, Repr

/-- An FB that a test harness instantiates alone, apart from the block (30_encoding.md R80; 40_framebuffer.md,
introduction; log 7), and its last response (30_encoding.md R81). -/
structure FbAlone where
  fb : Fb
  code : BitVec 4
  data : Option Byte
  deriving DecidableEq, Repr

/-- SEQ (10_state.md R28). STEP is the program-counter analogue (R29). -/
structure Seq where
  phase : Phase
  op : BitVec 3
  mode : Mode
  step : BitVec 5
  acts : List Action
  deriving DecidableEq, Repr

/-- The panel port (10_state.md R32): the outputs REQ, REQ_CMD and REQ_DATA, and the levels of the inputs BUSY and
RESP, which the PANEL agent drives (log 3). -/
structure Port where
  req : Bool
  reqCmd : Byte
  reqData : List Byte
  busy : Bool
  resp : Resp
  deriving DecidableEq, Repr

/-- A host access to the register space: its offset and its width in bytes (20_memory.md R55). -/
structure Access where
  offset : Nat
  width : Nat
  deriving DecidableEq, Repr

/-- One move of an agent (00_scope.md R14). The list `moves` of State is the interleaving of the outside agents with
SEQ (60_exceptions.md R208; log 2). -/
inductive Move where
  /-- HOST writes `v`. -/
  | hostWrite (a : Access) (v : Word)
  /-- HOST reads. -/
  | hostRead (a : Access)
  /-- A harness gives a request word to the FB it instantiates alone (30_encoding.md R80; log 7). -/
  | fbRequest (w : Word)
  /-- PANEL drives BUSY. -/
  | panelBusy (b : Bool)
  /-- PANEL drives RESP. -/
  | panelResp (r : Resp)
  /-- SEQ takes one step. -/
  | seq
  /-- The block is reset (70_reset_and_hazards.md R230, R233). -/
  | reset
  deriving DecidableEq, Repr

/-- Why a step stops with a fault. All three are safe (the model stops where nothing is stated), and no state that
meets the invariant of Safety.lean raises one. -/
inductive Fault where
  /-- Raised by a read of an FB byte that nothing has written since reset: its value is unspecified (10_state.md R27,
  R37; log 5). Safe. -/
  | fbByteUnwritten
  /-- Raised by an access to an FB byte at or above FB_MAX_BYTES, which the storage does not have (10_state.md R27;
  log 6). Safe. -/
  | fbByteAbsent
  /-- Raised by a step of a running operation whose STEP is no index of ACTS (10_state.md R29; log 14). Safe. -/
  | noCurrentAction
  deriving DecidableEq, Repr

/-- Why a step is refused. -/
inductive Refusal where
  /-- Raised by exec's arm of an instruction with no meaning; no arm raises it. Safe. -/
  | notModelled (mnemonic : String)
  /-- Raised by a host access that is not an aligned 32-bit one: "it gives such an access no meaning" (20_memory.md
  R55; 93_implementation_defined.md I21; log 17). Safe. -/
  | hostAccessForm
  deriving DecidableEq, Repr

/-- The whole state. `status` to `rom` are the five groups of 10_state.md R20 (`cancel` is CTRL.CANCEL, R25; CMD holds
nothing, R23); `xmax` is the parameter XMAX (00_scope.md R8; log 4); `port` and `trace` are R32. The rest are the
model's own: the FB that a harness has alone, which no rule of the block reads or writes (40_framebuffer.md R106; log 7),
the word the HOST's last read returned (41_panel_controller.md R130; log 17), and the moves to come (log 2). -/
structure State where
  status : Status
  cancel : Bool
  cfg : Cfg
  fb : Fb
  seq : Seq
  rom : Rom
  xmax : BitVec 16
  port : Port
  trace : List PanelEvent
  alone : FbAlone
  hostData : Word
  moves : List Move
  deriving DecidableEq, Repr

/-- The state after reset (10_state.md R37; 70_reset_and_hazards.md R230). DESIGN CHOICE for what R37 does not give:
REQ_CMD and REQ_DATA (log 8), BUSY and RESP (log 3), the response of the FB alone (log 7), the last host read (log 17). -/
def State.reset : State where
  status := { ready := true, configured := false, wc := false, cl := false, code := 0#4, rdata := 0x00#8 }
  cancel := false
  cfg := { configured := false, w := 0#8, h := 0#8 }
  fb := { cap := 0#16, bytes := [] }
  seq := { phase := .idle, op := 0#3, mode := .full, step := 0#5, acts := [] }
  rom := Config.rom
  xmax := Config.xmax
  port := { req := false, reqCmd := 0x00#8, reqData := [], busy := false, resp := .none }
  trace := []
  alone := { fb := { cap := 0#16, bytes := [] }, code := 0#4, data := none }
  hostData := 0#32
  moves := []

end Sys2Proof.Machine
end

