-- ==== Sys2Proof/Machine/Operands.lean ====
section
/-! DEFINITION. The computations over operands: the pixel index, the place of a bit, the row and transfer sizes, and
the bytes of a coordinate (41_panel_controller.md R132). All are exact in Nat, and truncated only where a rule says
mod (00_scope.md R11). -/

namespace Sys2Proof.Machine

/-- `i = Y * XMAX + X` (41_panel_controller.md R123). -/
def pixelIndex (xmax : BitVec 16) (x y : BitVec 8) : Nat := y.toNat * xmax.toNat + x.toNat

/-- The byte that holds FB bit `i` (20_memory.md R51). -/
def byteOfBit (i : Nat) : Nat := i / 8

/-- The place of FB bit `i` in its byte (20_memory.md R51). -/
def bitInByte (i : Nat) : Nat := i % 8

/-- The byte with FB bit `i` set to `on` and its other bits kept (20_memory.md R52). -/
def setBitIn (old : Byte) (i : Nat) (on : Bool) : Byte :=
  let m : Byte := 1#8 <<< bitInByte i
  (old &&& (0xFF#8 ^^^ m)) ||| (if on then m else 0#8)

/-- `ceil8(n)` (00_scope.md R11). -/
def ceil8 (n : Nat) : Nat := (n + 7) / 8 * 8

/-- `lo8(n)` (00_scope.md R11). -/
def lo8 (n : Nat) : Byte := BitVec.ofNat 8 (n % 256)

/-- `hi8(n)` (00_scope.md R11). -/
def hi8 (n : Nat) : Byte := BitVec.ofNat 8 (n / 256 % 256)

/-- XB, the bytes of a transferred row (00_scope.md R17). -/
def rowBytes (w : BitVec 8) : Nat := ceil8 w.toNat / 8

/-- N, the byte count of the data transfer (00_scope.md R17; 42_command_protocol.md R156). -/
def transferBytes (w h : BitVec 8) : Nat := rowBytes w * h.toNat

/-- XB - 1, the last byte column (42_command_protocol.md R167, R168). -/
def lastColumn (w : BitVec 8) : Byte := lo8 (rowBytes w - 1)

/-- lo8(H - 1) (42_command_protocol.md R167, R168). -/
def lastRowLow (h : BitVec 8) : Byte := lo8 (h.toNat - 1)

/-- hi8(H - 1) (42_command_protocol.md R167, R168). -/
def lastRowHigh (h : BitVec 8) : Byte := hi8 (h.toNat - 1)

/-- The update sub-code, 0xC7 for Full and 0x04 for Partial (30_encoding.md R86). -/
def updateCode : Mode → Byte
  | .full => 0xC7#8
  | .partial_ => 0x04#8

/-- The waveform table of a mode, 29 bytes (42_command_protocol.md R161). -/
def lutOf (rom : Rom) : Mode → List Byte
  | .full => rom.lutFull.toList
  | .partial_ => rom.lutPartial.toList

end Sys2Proof.Machine
end

