-- ==== Sys2Proof/Machine/ActionLists.lean ====
section
/-! DEFINITION. The action lists, part 2 of 42_command_protocol.md. -/

namespace Sys2Proof.Machine

/-- `U(c, d)`, standing for a row of the table. -/
def act (row : UnitRow) (c : Byte) (d : List Byte) : Action := .unit row { cmd := c, data := d }

/-- R158. -/
def initActs (rom : Rom) : List Action :=
  [ act .init01 0x01#8 rom.initData01, act .init0C 0x0C#8 rom.initData0C, act .init2C 0x2C#8 rom.initData2C,
    act .init3A 0x3A#8 rom.initData3A, act .init3B 0x3B#8 rom.initData3B, act .init11 0x11#8 rom.initData11 ]

/-- R159. -/
def ponActs (rom : Rom) : List Action :=
  [ act .pon rom.ponCmd rom.ponData, act .act rom.actCmd rom.actData, .waitOnly ]

/-- R160. -/
def poffActs (rom : Rom) : List Action :=
  [ act .poff12 0x12#8 rom.poffData12, act .poff82 0x82#8 rom.poffData82,
    act .poff01 0x01#8 rom.poffData01, act .poff02 0x02#8 rom.poffData02 ]

/-- R161. -/
def lutAct (rom : Rom) (m : Mode) : Action := act .lut rom.lutCmd (lutOf rom m)

/-- R162. -/
def windowActs (xs xe ys ysh ye yeh : Byte) : List Action :=
  [ act .ramXwin 0x44#8 [xs, xe], act .ramYwin 0x45#8 [ys, ysh, ye, yeh] ]

/-- R163. -/
def ptrActs (x y yh : Byte) : List Action := [ act .ramXptr 0x4E#8 [x], act .ramYptr 0x4F#8 [y, yh] ]

/-- R164. -/
def updateActs (m : Mode) : List Action :=
  [ act .update 0x22#8 [updateCode m], act .sync20 0x20#8 [], act .syncFF 0xFF#8 [] ]

/-- FULL_ACTS(W, H), 16 actions (R165, R167). -/
def fullActs (rom : Rom) (w h : BitVec 8) : List Action :=
  initActs rom ++ [lutAct rom .full] ++ ponActs rom ++
    ptrActs (lastColumn w) (lastRowLow h) (lastRowHigh h) ++ [.xfer] ++ updateActs .full

/-- PARTIAL_ACTS(W, H), 18 actions (R166, R168). -/
def partialActs (rom : Rom) (w h : BitVec 8) : List Action :=
  initActs rom ++ [lutAct rom .partial_] ++ ponActs rom ++
    windowActs 0x00#8 (lastColumn w) 0x00#8 0x00#8 (lastRowLow h) (lastRowHigh h) ++
    ptrActs 0x00#8 0x00#8 0x00#8 ++ [.xfer] ++ updateActs .partial_

/-- The flush list of a mode (41_panel_controller.md R125). -/
def flushActs (rom : Rom) (m : Mode) (w h : BitVec 8) : List Action :=
  match m with
  | .full => fullActs rom w h
  | .partial_ => partialActs rom w h

end Sys2Proof.Machine
end

