-- ==== Sys2Proof/Machine/Flags.lean ====
section
/-! DEFINITION. STATUS and its flags: the result-code numbers, the word the host reads, and the writes of R120, R121,
R131 and R152. The block has no arithmetic flags (10_state.md R31). -/

namespace Sys2Proof.Machine

/-- The 4-bit code of a result (60_exceptions.md R200). -/
def ResultCode.bits : ResultCode → BitVec 4
  | .ok => 0#4
  | .invalidSize => 1#4
  | .invalidIndex => 2#4
  | .outOfBounds => 3#4
  | .transportFailure => 4#4
  | .bufferOverrun => 5#4
  | .notConfigured => 6#4
  | .illegalOp => 7#4

/-- The STATUS word: RDATA at 23:16, CODE at 11:8, CL, WC, CONFIGURED and READY at 3 to 0, and 0 in the reserved bits
(10_state.md R24). -/
def Status.word (t : Status) : Word :=
  0#8 ++ t.rdata ++ 0#4 ++ t.code ++ 0#4 ++ BitVec.ofBool t.cl ++ BitVec.ofBool t.wc ++
    BitVec.ofBool t.configured ++ BitVec.ofBool t.ready

/-- The CTRL word: CANCEL at bit 0, the other bits 0 (10_state.md R25). -/
def ctrlWord (cancel : Bool) : Word := 0#31 ++ BitVec.ofBool cancel

/-- What accepting a command word writes: READY, WC, CL and CODE to 0 (41_panel_controller.md R120). -/
def Status.accepted (t : Status) : Status := { t with ready := false, wc := false, cl := false, code := 0#4 }

/-- What a lost command word writes: CL to 1 (41_panel_controller.md R121). -/
def Status.lost (t : Status) : Status := { t with cl := true }

/-- What completing an operation writes: CODE, and READY to 1 (41_panel_controller.md R131). -/
def Status.completed (t : Status) (c : ResultCode) : Status := { t with code := c.bits, ready := true }

/-- What a wait cut short writes: WC to 1 (42_command_protocol.md R152). -/
def Status.cutShort (t : Status) : Status := { t with wc := true }

end Sys2Proof.Machine
end

