-- ==== Sys2Proof/Machine/Ops.lean ====
section
/-! DEFINITION. The named operations over the FB and the registers, and how an operation ends. The block has no trap
(60_exceptions.md R209): `complete` is what raising an error does, and there is no return from one (R210). -/

namespace Sys2Proof.Machine

/-- The next state of a computation, or the fault it met. -/
def outcome : Except Fault State → Host.Outcome State Fault Refusal
  | .ok s => .next s
  | .error f => .fault f

/-! ### FB storage -/

/-- The value of a byte of the storage, if it has one (10_state.md R27; log 5). -/
def Memory.read : Memory → Nat → Option Byte
  | [], _ => none
  | (a, v) :: m, k => if a = k then some v else Memory.read m k

/-- The storage with byte `k` holding `v`, in canonical form. -/
def Memory.write : Memory → Nat → Byte → Memory
  | [], k, v => [(k, v)]
  | (a, u) :: m, k, v =>
    if k < a then (k, v) :: (a, u) :: m
    else if k = a then (k, v) :: m
    else (a, u) :: Memory.write m k v

/-- The storage with bytes 0 to n-1 holding 0 and the others kept (40_framebuffer.md R100). -/
def Memory.clear (m : Memory) (n : Nat) : Memory :=
  (List.range n).map (fun k => (k, 0x00#8)) ++ m.filter (fun c => decide (n ≤ c.1))

/-- `MemRead(k, 1)` (00_scope.md R13): a fault where the storage has no byte `k` or the byte has no value yet. -/
def memRead (m : Memory) (k : Nat) : Except Fault Byte :=
  if k < Config.fbMaxBytes then
    match m.read k with
    | some v => .ok v
    | none => .error .fbByteUnwritten
  else .error .fbByteAbsent

/-- `FbWriteBit(i, b)` (20_memory.md R52). -/
def fbWriteBit (m : Memory) (i : Nat) (b : Bool) : Except Fault Memory :=
  match memRead m (byteOfBit i) with
  | .ok old => .ok (m.write (byteOfBit i) (setBitIn old i b))
  | .error f => .error f

/-- FB_CREATE(c) (40_framebuffer.md R100): the result and the new FB. -/
def Fb.create (fb : Fb) (c : Nat) : ResultCode × Fb :=
  if c % 8 ≠ 0 ∨ c > Config.fbMaxBits then (.invalidSize, fb)
  else (.ok, { cap := BitVec.ofNat 16 c, bytes := fb.bytes.clear (c / 8) })

/-- FB_SET_BIT(i, on) (40_framebuffer.md R101): the result and the new FB. -/
def Fb.setBit (fb : Fb) (i : Nat) (on : Bool) : Except Fault (ResultCode × Fb) :=
  if i ≥ fb.cap.toNat then .ok (.invalidIndex, fb)
  else
    match fbWriteBit fb.bytes i on with
    | .ok m => .ok (.ok, { fb with bytes := m })
    | .error f => .error f

/-- FB_READ(k) (40_framebuffer.md R102): the byte, or none for InvalidIndex. -/
def Fb.readByte (fb : Fb) (k : Nat) : Except Fault (Option Byte) :=
  if k ≥ fb.cap.toNat / 8 then .ok none
  else
    match memRead fb.bytes k with
    | .ok v => .ok (some v)
    | .error f => .error f

/-- The values of the bytes with the given indices, in their order. -/
def memReads (m : Memory) : List Nat → Except Fault (List Byte)
  | [] => .ok []
  | k :: ks =>
    match memRead m k with
    | .error f => .error f
    | .ok v =>
      match memReads m ks with
      | .error f => .error f
      | .ok vs => .ok (v :: vs)

/-- `asBytes()[0..n)` (40_framebuffer.md R103): the first n of the CAP div 8 bytes of the buffer. It never reads a
byte at or above CAP div 8 (20_memory.md R59). -/
def Fb.asBytes (fb : Fb) (n : Nat) : Except Fault (List Byte) :=
  memReads fb.bytes (List.range (min n (fb.cap.toNat / 8)))

/-! ### Ending and accepting an operation -/

/-- `complete(code)`, which is also `raise E` (41_panel_controller.md R131; 60_exceptions.md R209): CODE and READY are
written, SEQ goes idle, and nothing else changes. MODE is kept. -/
def complete (c : ResultCode) (s : State) : State :=
  { s with
    status := s.status.completed c
    seq := { s.seq with phase := .idle, acts := [], step := 0#5, op := 0#3 } }

/-- A command word at CMD: accepted with the clearing of R120 while READY is 1, lost with CL set while it is 0
(41_panel_controller.md R120, R121). -/
def command (body : State → Except Fault State) (s : State) : Host.Outcome State Fault Refusal :=
  if s.status.ready then outcome (body { s with status := s.status.accepted })
  else .next { s with status := s.status.lost }

/-- An accepted multi-step operation: OP and ACTS are set, STEP is 0 and the engine starts (41_panel_controller.md
R125 to R127). -/
def launch (op : BitVec 3) (acts : List Action) (s : State) : State :=
  { s with seq := { s.seq with op := op, acts := acts, step := 0#5, phase := .start } }

/-! ### The engine's moves -/

/-- `STEP <- STEP + 1`, and the end of the operation when STEP reaches len(ACTS) (42_command_protocol.md R154). -/
def advance (s : State) : State :=
  let n := s.seq.step + 1#5
  if n.toNat = s.seq.acts.length then complete .ok { s with seq := { s.seq with step := n } }
  else { s with seq := { s.seq with step := n, phase := .start } }

/-- One poll of the busy-wait (42_command_protocol.md R152): `proceed` when BUSY is 0, or when CANCEL is 1 with WC
set; else the engine stays in WAIT. -/
def poll (proceed : State → State) (s : State) : State :=
  if s.port.busy = false then proceed s
  else if s.cancel = true then proceed { s with status := s.status.cutShort }
  else s

/-- PHASE alone. -/
def setPhase (p : Phase) (s : State) : State := { s with seq := { s.seq with phase := p } }

/-- SEND: the unit goes to the panel port (42_command_protocol.md R153). -/
def sendUnit (u : PanelUnit) (s : State) : State :=
  { s with
    trace := s.trace ++ [.sent u.cmd u.data]
    port := { s.port with req := true, reqCmd := u.cmd, reqData := u.data }
    seq := { s.seq with phase := .resp } }

/-- The trace and REQ after an answer (42_command_protocol.md R154). -/
def answered (e : PanelEvent) (s : State) : State :=
  { s with trace := s.trace ++ [e], port := { s.port with req := false } }

/-- RESP: the panel's answer, awaited while RESP is NONE (42_command_protocol.md R154, R191). -/
def takeAnswer (s : State) : State :=
  match s.port.resp with
  | .none => s
  | .ok => advance (answered .ok s)
  | .fail => complete .transportFailure (answered .fail s)

end Sys2Proof.Machine
end

