-- ==== Sys2Proof/Machine/Controller.lean ====
section
/-! DEFINITION. The host operations, 41_panel_controller.md R122 to R128: the effect of the command word written to
CMD, gated and preceded by the acceptance of R120 and R121 (`command`). -/

namespace Sys2Proof.Machine

/-- The body of CREATE (R122), once the word is accepted. -/
def createBody (w h : BitVec 8) (s : State) : Except Fault State :=
  if w = 0#8 ∨ h = 0#8 then .ok (complete .invalidSize s)
  else
    match s.fb.create (w.toNat * h.toNat) with
    | (.ok, fb) =>
      .ok (complete .ok
        { s with
          fb := fb
          cfg := { configured := true, w := w, h := h }
          status := { s.status with configured := true } })
    | (r, _) => .ok (complete r s)

/-- CREATE w, h (41_panel_controller.md R122). -/
def execCreate (w h : BitVec 8) (s : State) : Host.Outcome State Fault Refusal := command (createBody w h) s

/-- The body of SETPIX (R123), once the word is accepted: the checks in the order of 60_exceptions.md R207. -/
def setpixBody (x y : BitVec 8) (on : Bool) (s : State) : Except Fault State :=
  if s.cfg.configured = false then .ok (complete .notConfigured s)
  else if x.toNat > s.cfg.w.toNat ∨ y.toNat > s.cfg.h.toNat then .ok (complete .outOfBounds s)
  else
    match s.fb.setBit (pixelIndex s.xmax x y) on with
    | .ok (r, fb) => .ok (complete r { s with fb := fb })
    | .error f => .error f

/-- SETPIX x, y, on (41_panel_controller.md R123). -/
def execSetpix (x y : BitVec 8) (on : Bool) (s : State) : Host.Outcome State Fault Refusal :=
  command (setpixBody x y on) s

/-- The body of READFB (R124), once the word is accepted. -/
def readfbBody (k : BitVec 13) (s : State) : Except Fault State :=
  if s.cfg.configured = false then .ok (complete .notConfigured s)
  else
    match s.fb.readByte k.toNat with
    | .ok (some v) => .ok (complete .ok { s with status := { s.status with rdata := v } })
    | .ok none => .ok (complete .invalidIndex s)
    | .error f => .error f

/-- READFB k (41_panel_controller.md R124). -/
def execReadfb (k : BitVec 13) (s : State) : Host.Outcome State Fault Refusal := command (readfbBody k) s

/-- The body of FLUSH in a mode (R125), once the word is accepted. MODE is latched here. -/
def flushBody (m : Mode) (s : State) : Except Fault State :=
  if s.cfg.configured = false then .ok (complete .notConfigured s)
  else .ok (launch 3#3 (flushActs s.rom m s.cfg.w s.cfg.h) { s with seq := { s.seq with mode := m } })

/-- FLUSH.FULL (41_panel_controller.md R125). -/
def execFlushFull (s : State) : Host.Outcome State Fault Refusal := command (flushBody .full) s

/-- FLUSH.PARTIAL (41_panel_controller.md R125). -/
def execFlushPartial (s : State) : Host.Outcome State Fault Refusal := command (flushBody .partial_) s

/-- PWRON (41_panel_controller.md R126): accepted whether configured or not. -/
def execPwron (s : State) : Host.Outcome State Fault Refusal :=
  command (fun s => .ok (launch 4#3 (ponActs s.rom) s)) s

/-- PWROFF (41_panel_controller.md R127): accepted whether configured or not. -/
def execPwroff (s : State) : Host.Outcome State Fault Refusal :=
  command (fun s => .ok (launch 5#3 (poffActs s.rom) s)) s

/-- An illegal command word (41_panel_controller.md R128): IllegalOp, whatever the word. -/
def execIllegal (_w : Word) (s : State) : Host.Outcome State Fault Refusal :=
  command (fun s => .ok (complete .illegalOp s)) s

end Sys2Proof.Machine
end

