-- ==== Sys2Proof/Machine/FrameBuffer.lean ====
section
/-! DEFINITION. The FB request words, 40_framebuffer.md and 30_encoding.md R80 to R82, given by a test harness to an FB
that it instantiates alone (log 7). Inside the block only the sequencer reaches the FB (40_framebuffer.md R106): CREATE,
SETPIX, READFB and the transfer run the same FB operations of Ops on the block's own FB. The response is the result code,
with a data byte for an FB_READ that is OK (R81). -/

namespace Sys2Proof.Machine

/-- The FB alone, once it has answered a request. -/
def respond (c : ResultCode) (d : Option Byte) (fb : Fb) (s : State) : State :=
  { s with alone := { fb := fb, code := c.bits, data := d } }

/-- FB_CREATE(c) (40_framebuffer.md R100). -/
def execFbCreate (c : BitVec 24) (s : State) : Host.Outcome State Fault Refusal :=
  match s.alone.fb.create c.toNat with
  | (r, fb) => .next (respond r none fb s)

/-- FB_SET_BIT(i, on) (40_framebuffer.md R101). -/
def execFbSetBit (i : BitVec 24) (on : Bool) (s : State) : Host.Outcome State Fault Refusal :=
  match s.alone.fb.setBit i.toNat on with
  | .ok (r, fb) => .next (respond r none fb s)
  | .error f => .fault f

/-- FB_READ(k) (40_framebuffer.md R102). -/
def execFbRead (k : BitVec 24) (s : State) : Host.Outcome State Fault Refusal :=
  match s.alone.fb.readByte k.toNat with
  | .ok (some v) => .next (respond .ok (some v) s.alone.fb s)
  | .ok none => .next (respond .invalidIndex none s.alone.fb s)
  | .error f => .fault f

/-- An illegal FB request word (30_encoding.md R82): IllegalOp, whatever the word, and no FB state changes. -/
def execFbIllegal (_w : Word) (s : State) : Host.Outcome State Fault Refusal :=
  .next (respond .illegalOp none s.alone.fb s)

end Sys2Proof.Machine
end

