-- ==== Sys2Proof/Machine/Engine.lean ====
section
/-! DEFINITION. The command protocol engine, part 1 of 42_command_protocol.md: one step of an action, by PHASE. -/

namespace Sys2Proof.Machine

/-- One engine step of the action `U(c, d)` (42_command_protocol.md R151 to R154). In IDLE no action runs and nothing
changes. -/
def unitStep (u : PanelUnit) (s : State) : Host.Outcome State Fault Refusal :=
  match s.seq.phase with
  | .idle => .next s
  | .start => .next (setPhase .wait s)
  | .wait => .next (poll (setPhase .send) s)
  | .send => .next (sendUnit u s)
  | .resp => .next (takeAnswer s)

/-- One engine step of the action XFER (42_command_protocol.md R151, R156): as a unit, with the overrun check at START
and the buffer as its data. -/
def xferStep (c : Byte) (s : State) : Host.Outcome State Fault Refusal :=
  match s.seq.phase with
  | .idle => .next s
  | .start =>
    if transferBytes s.cfg.w s.cfg.h > s.fb.cap.toNat / 8 then .next (complete .bufferOverrun s)
    else .next (setPhase .wait s)
  | .wait => .next (poll (setPhase .send) s)
  | .send =>
    match s.fb.asBytes (transferBytes s.cfg.w s.cfg.h) with
    | .ok d => .next (sendUnit { cmd := c, data := d } s)
    | .error f => .fault f
  | .resp => .next (takeAnswer s)

/-- One engine step of the action WAITONLY (42_command_protocol.md R151, R152, R155): a wait that advances, with no
SEND and no RESP. -/
def waitOnlyStep (s : State) : State :=
  match s.seq.phase with
  | .idle => s
  | .start => setPhase .wait s
  | .wait => poll advance s
  | .send => s
  | .resp => s

end Sys2Proof.Machine
end

