-- ==== Sys2Proof/Machine/PanelUnits.lean ====
section
/-! DEFINITION. The panel command units, part 3 of 42_command_protocol.md. The meaning of a unit is the engine's step of
it, by PHASE (R151 to R154; log 11), with the command byte and data its own rule gives. -/

namespace Sys2Proof.Machine

/-- The x part of the RAM pointer (42_command_protocol.md R181). -/
def xPointer (m : Mode) (w : BitVec 8) : List Byte :=
  match m with
  | .full => [lastColumn w]
  | .partial_ => [0x00#8]

/-- The y part of the RAM pointer, low byte first (42_command_protocol.md R182). -/
def yPointer (m : Mode) (h : BitVec 8) : List Byte :=
  match m with
  | .full => [lastRowLow h, lastRowHigh h]
  | .partial_ => [0x00#8, 0x00#8]

/-- The unit of INIT_01 (42_command_protocol.md R170). -/
def unitInit01 (s : State) : PanelUnit := { cmd := 0x01#8, data := s.rom.initData01 }

/-- INIT_01: an engine step of its unit. -/
def execInit01 (s : State) : Host.Outcome State Fault Refusal := unitStep (unitInit01 s) s

/-- The unit of INIT_0C (42_command_protocol.md R171). -/
def unitInit0C (s : State) : PanelUnit := { cmd := 0x0C#8, data := s.rom.initData0C }

/-- INIT_0C: an engine step of its unit. -/
def execInit0C (s : State) : Host.Outcome State Fault Refusal := unitStep (unitInit0C s) s

/-- The unit of INIT_2C (42_command_protocol.md R172). -/
def unitInit2C (s : State) : PanelUnit := { cmd := 0x2C#8, data := s.rom.initData2C }

/-- INIT_2C: an engine step of its unit. -/
def execInit2C (s : State) : Host.Outcome State Fault Refusal := unitStep (unitInit2C s) s

/-- The unit of INIT_3A (42_command_protocol.md R173). -/
def unitInit3A (s : State) : PanelUnit := { cmd := 0x3A#8, data := s.rom.initData3A }

/-- INIT_3A: an engine step of its unit. -/
def execInit3A (s : State) : Host.Outcome State Fault Refusal := unitStep (unitInit3A s) s

/-- The unit of INIT_3B (42_command_protocol.md R174). -/
def unitInit3B (s : State) : PanelUnit := { cmd := 0x3B#8, data := s.rom.initData3B }

/-- INIT_3B: an engine step of its unit. -/
def execInit3B (s : State) : Host.Outcome State Fault Refusal := unitStep (unitInit3B s) s

/-- The unit of INIT_11 (42_command_protocol.md R175). -/
def unitInit11 (s : State) : PanelUnit := { cmd := 0x11#8, data := s.rom.initData11 }

/-- INIT_11: an engine step of its unit. -/
def execInit11 (s : State) : Host.Outcome State Fault Refusal := unitStep (unitInit11 s) s

/-- The unit of LUT (42_command_protocol.md R176: LUT_FULL or LUT_PARTIAL by the latched MODE). -/
def unitLut (s : State) : PanelUnit := { cmd := s.rom.lutCmd, data := lutOf s.rom s.seq.mode }

/-- LUT: an engine step of its unit. -/
def execLut (s : State) : Host.Outcome State Fault Refusal := unitStep (unitLut s) s

/-- The unit of PON (42_command_protocol.md R177). -/
def unitPon (s : State) : PanelUnit := { cmd := s.rom.ponCmd, data := s.rom.ponData }

/-- PON: an engine step of its unit. -/
def execPon (s : State) : Host.Outcome State Fault Refusal := unitStep (unitPon s) s

/-- The unit of ACT (42_command_protocol.md R178). -/
def unitAct (s : State) : PanelUnit := { cmd := s.rom.actCmd, data := s.rom.actData }

/-- ACT: an engine step of its unit. -/
def execAct (s : State) : Host.Outcome State Fault Refusal := unitStep (unitAct s) s

/-- The unit of RAM_XWIN (42_command_protocol.md R179: [0x00, XB - 1]). -/
def unitRamXwin (s : State) : PanelUnit := { cmd := 0x44#8, data := [0x00#8, lastColumn s.cfg.w] }

/-- RAM_XWIN: an engine step of its unit. -/
def execRamXwin (s : State) : Host.Outcome State Fault Refusal := unitStep (unitRamXwin s) s

/-- The unit of RAM_YWIN (42_command_protocol.md R180: [0x00, 0x00, lo8(H - 1), hi8(H - 1)]). -/
def unitRamYwin (s : State) : PanelUnit := { cmd := 0x45#8, data := [0x00#8, 0x00#8, lastRowLow s.cfg.h, lastRowHigh s.cfg.h] }

/-- RAM_YWIN: an engine step of its unit. -/
def execRamYwin (s : State) : Host.Outcome State Fault Refusal := unitStep (unitRamYwin s) s

/-- The unit of RAM_XPTR (42_command_protocol.md R181: [XB - 1] in Full mode, [0x00] in Partial mode). -/
def unitRamXptr (s : State) : PanelUnit := { cmd := 0x4E#8, data := xPointer s.seq.mode s.cfg.w }

/-- RAM_XPTR: an engine step of its unit. -/
def execRamXptr (s : State) : Host.Outcome State Fault Refusal := unitStep (unitRamXptr s) s

/-- The unit of RAM_YPTR (42_command_protocol.md R182: [lo8(H - 1), hi8(H - 1)] in Full mode, [0x00, 0x00] in Partial mode). -/
def unitRamYptr (s : State) : PanelUnit := { cmd := 0x4F#8, data := yPointer s.seq.mode s.cfg.h }

/-- RAM_YPTR: an engine step of its unit. -/
def execRamYptr (s : State) : Host.Outcome State Fault Refusal := unitStep (unitRamYptr s) s

/-- WRITE_RAM, the unit of the XFER action (42_command_protocol.md R156, R183): 0x24 and the buffer's first N bytes. -/
def execWriteRam (s : State) : Host.Outcome State Fault Refusal := xferStep 0x24#8 s

/-- The unit of UPDATE (42_command_protocol.md R184: 0xC7 in Full mode, 0x04 in Partial mode). -/
def unitUpdate (s : State) : PanelUnit := { cmd := 0x22#8, data := [updateCode s.seq.mode] }

/-- UPDATE: an engine step of its unit. -/
def execUpdate (s : State) : Host.Outcome State Fault Refusal := unitStep (unitUpdate s) s

/-- The unit of SYNC_20 (42_command_protocol.md R185). -/
def unitSync20 (_s : State) : PanelUnit := { cmd := 0x20#8, data := [] }

/-- SYNC_20: an engine step of its unit. -/
def execSync20 (s : State) : Host.Outcome State Fault Refusal := unitStep (unitSync20 s) s

/-- The unit of SYNC_FF (42_command_protocol.md R186). -/
def unitSyncFF (_s : State) : PanelUnit := { cmd := 0xFF#8, data := [] }

/-- SYNC_FF: an engine step of its unit. -/
def execSyncFF (s : State) : Host.Outcome State Fault Refusal := unitStep (unitSyncFF s) s

/-- The unit of POFF_12 (42_command_protocol.md R187). -/
def unitPoff12 (s : State) : PanelUnit := { cmd := 0x12#8, data := s.rom.poffData12 }

/-- POFF_12: an engine step of its unit. -/
def execPoff12 (s : State) : Host.Outcome State Fault Refusal := unitStep (unitPoff12 s) s

/-- The unit of POFF_82 (42_command_protocol.md R188). -/
def unitPoff82 (s : State) : PanelUnit := { cmd := 0x82#8, data := s.rom.poffData82 }

/-- POFF_82: an engine step of its unit. -/
def execPoff82 (s : State) : Host.Outcome State Fault Refusal := unitStep (unitPoff82 s) s

/-- The unit of POFF_01 (42_command_protocol.md R189). -/
def unitPoff01 (s : State) : PanelUnit := { cmd := 0x01#8, data := s.rom.poffData01 }

/-- POFF_01: an engine step of its unit. -/
def execPoff01 (s : State) : Host.Outcome State Fault Refusal := unitStep (unitPoff01 s) s

/-- The unit of POFF_02 (42_command_protocol.md R190). -/
def unitPoff02 (s : State) : PanelUnit := { cmd := 0x02#8, data := s.rom.poffData02 }

/-- POFF_02: an engine step of its unit. -/
def execPoff02 (s : State) : Host.Outcome State Fault Refusal := unitStep (unitPoff02 s) s

end Sys2Proof.Machine
end

