-- ==== Sys2Proof/Machine/Dispatch.lean ====
section
/-! DEFINITION. exec: one arm per row of spec/opcode_table.json, in its order. -/

namespace Sys2Proof.Machine

def exec (i : Instr) (s : State) : Host.Outcome State Fault Refusal :=
  match i with
  -- host command words, 41_panel_controller.md
  | .create w h => Sys2Proof.Machine.execCreate w h s
  | .setpix x y on => Sys2Proof.Machine.execSetpix x y on s
  | .flushFull => Sys2Proof.Machine.execFlushFull s
  | .flushPartial => Sys2Proof.Machine.execFlushPartial s
  | .pwron => Sys2Proof.Machine.execPwron s
  | .pwroff => Sys2Proof.Machine.execPwroff s
  | .readfb k => Sys2Proof.Machine.execReadfb k s
  | .illegal w => Sys2Proof.Machine.execIllegal w s
  -- FB request words, 40_framebuffer.md
  | .fbCreate c => Sys2Proof.Machine.execFbCreate c s
  | .fbSetBit k on => Sys2Proof.Machine.execFbSetBit k on s
  | .fbRead k => Sys2Proof.Machine.execFbRead k s
  | .fbIllegal w => Sys2Proof.Machine.execFbIllegal w s
  -- panel units, 42_command_protocol.md part 3
  | .init01 => Sys2Proof.Machine.execInit01 s
  | .init0C => Sys2Proof.Machine.execInit0C s
  | .init2C => Sys2Proof.Machine.execInit2C s
  | .init3A => Sys2Proof.Machine.execInit3A s
  | .init3B => Sys2Proof.Machine.execInit3B s
  | .init11 => Sys2Proof.Machine.execInit11 s
  | .lut => Sys2Proof.Machine.execLut s
  | .pon => Sys2Proof.Machine.execPon s
  | .act => Sys2Proof.Machine.execAct s
  | .ramXwin => Sys2Proof.Machine.execRamXwin s
  | .ramYwin => Sys2Proof.Machine.execRamYwin s
  | .ramXptr => Sys2Proof.Machine.execRamXptr s
  | .ramYptr => Sys2Proof.Machine.execRamYptr s
  | .writeRam => Sys2Proof.Machine.execWriteRam s
  | .update => Sys2Proof.Machine.execUpdate s
  | .sync20 => Sys2Proof.Machine.execSync20 s
  | .syncFF => Sys2Proof.Machine.execSyncFF s
  | .poff12 => Sys2Proof.Machine.execPoff12 s
  | .poff82 => Sys2Proof.Machine.execPoff82 s
  | .poff01 => Sys2Proof.Machine.execPoff01 s
  | .poff02 => Sys2Proof.Machine.execPoff02 s

end Sys2Proof.Machine
end

