-- ==== Sys2Proof/Machine/Moves.lean ====
section
/-! DEFINITION. One move of an agent: host register accesses, harness requests, the panel's lines, SEQ's own step,
and reset (00_scope.md R14). -/

namespace Sys2Proof.Machine

/-- The instruction of a row that an action stands for. -/
def rowInstr : UnitRow → Instr
  | .init01 => .init01
  | .init0C => .init0C
  | .init2C => .init2C
  | .init3A => .init3A
  | .init3B => .init3B
  | .init11 => .init11
  | .lut => .lut
  | .pon => .pon
  | .act => .act
  | .ramXwin => .ramXwin
  | .ramYwin => .ramYwin
  | .ramXptr => .ramXptr
  | .ramYptr => .ramYptr
  | .update => .update
  | .sync20 => .sync20
  | .syncFF => .syncFF
  | .poff12 => .poff12
  | .poff82 => .poff82
  | .poff01 => .poff01
  | .poff02 => .poff02

/-- The action ACTS[STEP] of a running operation (10_state.md R29). -/
def currentAction (s : State) : Option Action := s.seq.acts[s.seq.step.toNat]?

/-- SEQ's own step: none while idle (70_reset_and_hazards.md R231), else the step of ACTS[STEP] (42_command_protocol.md
R150 to R156). -/
def sequencer (s : State) : Host.Outcome State Fault Refusal :=
  if s.seq.phase = .idle then .next s
  else
    match currentAction s with
    | some (.unit row _) => exec (rowInstr row) s
    | some .xfer => exec .writeRam s
    | some .waitOnly => .next (waitOnlyStep s)
    | none => .fault .noCurrentAction

/-- An access with a meaning: 32 bits wide at a multiple of 4 (20_memory.md R55). -/
def Access.aligned (a : Access) : Bool := decide (a.width = 4) && decide (a.offset % 4 = 0)

/-- A host write (10_state.md R22): CMD at 0x0 runs the word's operation, CTRL at 0x8 sets CANCEL from bit 0 (R25;
41_panel_controller.md R129), and STATUS and the reserved offsets ignore it (R24; 20_memory.md R56). -/
def hostWrite (a : Access) (v : Word) (s : State) : Host.Outcome State Fault Refusal :=
  if a.aligned then
    if a.offset = 0x0 then exec (decodeHost v) s
    else if a.offset = 0x8 then .next { s with cancel := v.getLsbD 0 }
    else .next s
  else .refused .hostAccessForm

/-- What a host read returns (41_panel_controller.md R130; 10_state.md R23; 20_memory.md R56). -/
def readValue (offset : Nat) (s : State) : Word :=
  if offset = 0x4 then s.status.word
  else if offset = 0x8 then ctrlWord s.cancel
  else 0x00000000#32

/-- A host read: the word it returns is recorded as the model's `hostData`, and nothing of the block changes
(20_memory.md R57). -/
def hostRead (a : Access) (s : State) : Host.Outcome State Fault Refusal :=
  if a.aligned then .next { s with hostData := readValue a.offset s }
  else .refused .hostAccessForm

/-- Reset (70_reset_and_hazards.md R230, R233): the state after reset. The ROM and XMAX survive (10_state.md R33), and
what is not the block's stays: the panel's lines, the FB a harness has alone, the word the host read, the moves to come
(log 10). -/
def resetBlock (s : State) : State :=
  { State.reset with
    rom := s.rom
    xmax := s.xmax
    port := { State.reset.port with busy := s.port.busy, resp := s.port.resp }
    alone := s.alone
    hostData := s.hostData
    moves := s.moves }

/-- One move. -/
def perform (m : Move) (s : State) : Host.Outcome State Fault Refusal :=
  match m with
  | .hostWrite a v => hostWrite a v s
  | .hostRead a => hostRead a s
  | .fbRequest w => exec (decodeFb w) s
  | .panelBusy b => .next { s with port := { s.port with busy := b } }
  | .panelResp r => .next { s with port := { s.port with resp := r } }
  | .seq => sequencer s
  | .reset => .next (resetBlock s)

/-- The machine's step: the next move of the list, taken off it; with none left, SEQ's own step (log 2). -/
def stepMove (s : State) : Host.Outcome State Fault Refusal :=
  match s.moves with
  | [] => sequencer s
  | m :: rest => perform m { s with moves := rest }

/-! ### Placing one instruction -/

/-- The action that stands for a unit's instruction, with the unit its rule gives; none for host and FB words. -/
def actionOf (i : Instr) (s : State) : Option Action :=
  match i with
  | .init01 => some (.unit .init01 (unitInit01 s))
  | .init0C => some (.unit .init0C (unitInit0C s))
  | .init2C => some (.unit .init2C (unitInit2C s))
  | .init3A => some (.unit .init3A (unitInit3A s))
  | .init3B => some (.unit .init3B (unitInit3B s))
  | .init11 => some (.unit .init11 (unitInit11 s))
  | .lut => some (.unit .lut (unitLut s))
  | .pon => some (.unit .pon (unitPon s))
  | .act => some (.unit .act (unitAct s))
  | .ramXwin => some (.unit .ramXwin (unitRamXwin s))
  | .ramYwin => some (.unit .ramYwin (unitRamYwin s))
  | .ramXptr => some (.unit .ramXptr (unitRamXptr s))
  | .ramYptr => some (.unit .ramYptr (unitRamYptr s))
  | .writeRam => some .xfer
  | .update => some (.unit .update (unitUpdate s))
  | .sync20 => some (.unit .sync20 (unitSync20 s))
  | .syncFF => some (.unit .syncFF (unitSyncFF s))
  | .poff12 => some (.unit .poff12 (unitPoff12 s))
  | .poff82 => some (.unit .poff82 (unitPoff82 s))
  | .poff01 => some (.unit .poff01 (unitPoff01 s))
  | .poff02 => some (.unit .poff02 (unitPoff02 s))
  | .create _ _ => none
  | .setpix _ _ _ => none
  | .flushFull => none
  | .flushPartial => none
  | .pwron => none
  | .pwroff => none
  | .readfb _ => none
  | .illegal _ => none
  | .fbCreate _ => none
  | .fbSetBit _ _ => none
  | .fbRead _ => none
  | .fbIllegal _ => none

/-- The state whose very next step runs the table row's word (log 16): a host word is the HOST's next write to CMD, an
FB word the harness's next request, and a unit the engine's only action, at its SEND. -/
def placeWord (s : State) (nbits w : Nat) : State :=
  match decodeTableWord nbits w with
  | none => s
  | some i =>
    match actionOf i s with
    | some a =>
      { s with
        moves := .seq :: s.moves
        seq := { s.seq with phase := .send, step := 0#5, acts := [a] } }
    | none =>
      match decodeHost (BitVec.ofNat 32 w), i with
      | .illegal _, .illegal _ => { s with moves := .hostWrite { offset := 0, width := 4 } (BitVec.ofNat 32 w) :: s.moves }
      | .illegal _, _ => { s with moves := .fbRequest (BitVec.ofNat 32 w) :: s.moves }
      | _, _ => { s with moves := .hostWrite { offset := 0, width := 4 } (BitVec.ofNat 32 w) :: s.moves }

end Sys2Proof.Machine
end

