-- ==== Sys2Proof/Machine/Step.lean ====
section
/-! DEFINITION. The step of the machine, and the placing of one instruction where it is fetched. -/

namespace Sys2Proof.Machine

/-- One step: the next move of an agent, or SEQ's own step. -/
def step (s : State) : Host.Outcome State Fault Refusal := stepMove s

/-- `s` with one row's word placed so that the very next step runs it. -/
def State.withFetchWord (s : State) (nbits w : Nat) : State := placeWord s nbits w

end Sys2Proof.Machine
end

