-- ==== Sys2Proof/Safety.lean ====
section
/-! DEFINITION. What a sound state of the block is: the invariants of 10_state.md R35 and of the rules about its
registers, as predicates over plain data. -/

namespace Sys2Proof.Machine

/-- An FB by itself: CAP is a multiple of 8 within the storage (10_state.md R35, 1), the storage is in canonical form, and
every byte of the buffer has a value, since FB_CREATE writes them all (10_state.md R27). -/
structure FbSound (fb : Fb) : Prop where
  whole_bytes : fb.cap.toNat % 8 = 0
  within : fb.cap.toNat ≤ Config.fbMaxBits
  canonical : Memory.wf fb.bytes = true
  written : ∀ k, k < fb.cap.toNat / 8 → (fb.bytes.read k).isSome = true

/-- The action list that OP, MODE, W and H give (10_state.md R30; 41_panel_controller.md R125 to R127). -/
def actsOf (s : State) : List Action :=
  match s.seq.op.toNat with
  | 3 => flushActs s.rom s.seq.mode s.cfg.w s.cfg.h
  | 4 => ponActs s.rom
  | 5 => poffActs s.rom
  | _ => []

/-- The capacity agrees with the configuration (10_state.md R35, 2 and 3): CAP = W * H once configured, 0 before. -/
def CapAgrees (s : State) : Prop :=
  if s.cfg.configured then s.fb.cap.toNat = s.cfg.w.toNat * s.cfg.h.toNat else s.fb.cap = 0#16

/-- A running operation: its list is the one its OP gives, STEP is an index of it (10_state.md R29), a FLUSH is
configured, a WAITONLY never reaches SEND or RESP (42_command_protocol.md R155), and an XFER past its START has N bytes
to send (R151, R156). -/
structure Running (s : State) : Prop where
  op_known : s.seq.op = 3#3 ∨ s.seq.op = 4#3 ∨ s.seq.op = 5#3
  acts_built : s.seq.acts = actsOf s
  step_in_acts : s.seq.step.toNat < s.seq.acts.length
  flush_configured : s.seq.op = 3#3 → s.cfg.configured = true
  wait_only : s.seq.phase = .send ∨ s.seq.phase = .resp → currentAction s ≠ some .waitOnly
  transfer_fits : s.seq.phase ≠ .start → currentAction s = some .xfer →
    transferBytes s.cfg.w s.cfg.h ≤ s.fb.cap.toNat / 8

/-- The invariant of the block, which every step keeps. -/
structure BlockInv (s : State) : Prop where
  fb : FbSound s.fb
  /-- R35, 4. -/
  ready_idle : s.status.ready = true ↔ s.seq.phase = .idle
  /-- R35, 5. -/
  configured_copy : s.status.configured = s.cfg.configured
  /-- R35, 2 and 3, the capacity. -/
  cap_agrees : CapAgrees s
  /-- R35, 2 and 3, the ranges of W and H. -/
  dims : if s.cfg.configured then 1 ≤ s.cfg.w.toNat ∧ 1 ≤ s.cfg.h.toNat else s.cfg.w = 0#8 ∧ s.cfg.h = 0#8
  /-- REQ is 1 from the SEND step until the panel answers (10_state.md R32). -/
  req_resp : s.port.req = true ↔ s.seq.phase = .resp
  /-- Codes 8 to 15 are never produced (60_exceptions.md R200). -/
  code_known : s.status.code.toNat ≤ 7
  /-- CODE is 0 while an operation runs (10_state.md R24). -/
  code_running : s.status.ready = false → s.status.code = 0#4
  /-- `complete` and reset leave OP, STEP and ACTS cleared (41_panel_controller.md R131; 10_state.md R37). -/
  idle_clear : s.seq.phase = .idle → s.seq.op = 0#3 ∧ s.seq.step = 0#5 ∧ s.seq.acts = []
  running : s.seq.phase ≠ .idle → Running s
  /-- XMAX is 1..65535 and the ROM's payloads have at most 255 bytes (00_scope.md R8). -/
  xmax_range : 1 ≤ s.xmax.toNat
  rom_wf : s.rom.wf = true
  /-- The FB that a harness has alone is an FB like any (40_framebuffer.md R100 to R102). -/
  alone : FbSound s.alone.fb

/-- The next move is no host access of a form that has no meaning (20_memory.md R55). -/
def HostAccessesAligned (s : State) : Prop :=
  ∀ a rest, (∀ v, s.moves = .hostWrite a v :: rest → a.aligned = true) ∧
    (s.moves = .hostRead a :: rest → a.aligned = true)

end Sys2Proof.Machine
end

