-- ==== Sys2Proof/Certificates/Slice0/Obligations.lean ====
section
/-! DEFINITION. The statements for the provers, from the numbered rules of spec/. The next states are written here as
records, in the rules' own terms; `cleared`, `finished` and the like only name a record that many rules share. -/

open Sys2Proof Sys2Proof.Machine

namespace Sys2Proof.Expected

/-- The state once a command word is accepted (41_panel_controller.md R120). -/
def cleared (s : State) : State :=
  { s with status := { s.status with ready := false, wc := false, cl := false, code := 0#4 } }

/-- The state once an operation has ended with a code (41_panel_controller.md R131). -/
def finished (code : BitVec 4) (s : State) : State :=
  { s with
    status := { s.status with ready := true, code := code }
    seq := { s.seq with phase := .idle, acts := [], step := 0#5, op := 0#3 } }

/-- The state once a multi-step operation has started (41_panel_controller.md R125 to R127). -/
def started (op : BitVec 3) (mode : Mode) (acts : List Action) (s : State) : State :=
  { s with seq := { phase := .start, op := op, mode := mode, step := 0#5, acts := acts } }

/-- The state with another PHASE. -/
def inPhase (p : Phase) (s : State) : State := { s with seq := { s.seq with phase := p } }

/-- The state once a unit has been presented (42_command_protocol.md R153). -/
def presented (c : Byte) (d : List Byte) (s : State) : State :=
  { s with
    trace := s.trace ++ [.sent c d]
    port := { s.port with req := true, reqCmd := c, reqData := d }
    seq := { s.seq with phase := .resp } }

/-- The host words' rows: mask and match (30_encoding.md R72 to R76). -/
def hostRows : List (Word × Word) :=
  [ (0xFFFF0000#32, 0x10000000#32), (0xFFFE0000#32, 0x20000000#32), (0xFFFFFFFE#32, 0x30000000#32),
    (0xFFFFFFFF#32, 0x40000000#32), (0xFFFFFFFF#32, 0x50000000#32), (0xFFFFE000#32, 0x60000000#32) ]

/-- The FB request words' rows: mask and match (30_encoding.md R80). -/
def fbRows : List (Word × Word) :=
  [ (0xFF000000#32, 0x00000000#32), (0xFE000000#32, 0x40000000#32), (0xFF000000#32, 0x80000000#32) ]

/-- The rows a word matches: `(w AND mask) = match` (30_encoding.md R77). -/
def matching (rows : List (Word × Word)) (w : Word) : List (Word × Word) :=
  rows.filter (fun r => w &&& r.1 == r.2)

/-- FB bit i, where its byte has a value (20_memory.md R51). -/
def bitAt (m : Memory) (i : Nat) : Option Bool := (m.read (i / 8)).map (fun b => b.getLsbD (i % 8))

/-- The immediate host operations (41_panel_controller.md R135). -/
def isBufferWord (i : Instr) : Prop :=
  (∃ w h, i = .create w h) ∨ (∃ x y on, i = .setpix x y on) ∨ (∃ k, i = .readfb k) ∨ ∃ w, i = .illegal w

/-- The instructions of the host port (30_encoding.md R71). -/
def isHostWord (i : Instr) : Prop :=
  isBufferWord i ∨ i = .flushFull ∨ i = .flushPartial ∨ i = .pwron ∨ i = .pwroff

/-- The instructions of the panel port (30_encoding.md R85). -/
def isUnit (i : Instr) : Prop := i = .writeRam ∨ ∃ row, i = rowInstr row

/-- The five invariants of 10_state.md R35. -/
def fiveInvariants (s : State) : Prop :=
  (s.fb.cap.toNat % 8 = 0 ∧ s.fb.cap.toNat ≤ Config.fbMaxBits) ∧
  (s.cfg.configured = true →
    s.fb.cap.toNat = s.cfg.w.toNat * s.cfg.h.toNat ∧ 1 ≤ s.cfg.w.toNat ∧ 1 ≤ s.cfg.h.toNat) ∧
  (s.cfg.configured = false → s.fb.cap = 0#16 ∧ s.cfg.w = 0#8 ∧ s.cfg.h = 0#8) ∧
  (s.status.ready = true ↔ s.seq.phase = .idle) ∧
  s.status.configured = s.cfg.configured

/-- The trace of units all answered OK. -/
def allOk (us : List (Byte × List Byte)) : List PanelEvent :=
  us.flatMap (fun u => [PanelEvent.sent u.1 u.2, PanelEvent.ok])

/-- The units of the initialise step (42_command_protocol.md R158). -/
def initUnits (r : Rom) : List (Byte × List Byte) :=
  [ (0x01#8, r.initData01), (0x0C#8, r.initData0C), (0x2C#8, r.initData2C), (0x3A#8, r.initData3A),
    (0x3B#8, r.initData3B), (0x11#8, r.initData11) ]

/-- The panel answers every unit OK and is never busy, and no other agent moves. RESP is a level: left at OK, it answers
every unit (log 3). -/
def panelAlwaysOk (s : State) : Prop := s.moves = [] ∧ s.port.busy = false ∧ s.port.resp = .ok

end Sys2Proof.Expected

open Sys2Proof.Expected

/-! ### Encoding -/

/-- Words written out from the spec's encodings decode to their instructions (30_encoding.md R72 to R76, R80, R85, R87,
with its examples). -/
def Obligations.SpecWordsDecode : Prop :=
  decodeHost 0x10000802#32 = .create 8#8 2#8 ∧ decodeHost 0x20010701#32 = .setpix 7#8 1#8 true ∧
  decodeHost 0x20000300#32 = .setpix 3#8 0#8 false ∧
  decodeHost 0x30000000#32 = .flushFull ∧ decodeHost 0x30000001#32 = .flushPartial ∧
  decodeHost 0x40000000#32 = .pwron ∧ decodeHost 0x50000000#32 = .pwroff ∧
  decodeHost 0x60000001#32 = .readfb 1#13 ∧ decodeHost 0x10010802#32 = .illegal 0x10010802#32 ∧
  decodeFb 0x0000FE00#32 = .fbCreate 65024#24 ∧ decodeFb 0x41000009#32 = .fbSetBit 9#24 true ∧
  decodeFb 0x80000007#32 = .fbRead 7#24 ∧ decodeFb 0xC0000000#32 = .fbIllegal 0xC0000000#32 ∧
  (∀ r, decode r (.unit .flush 0x01#8) = .ok .init01 ∧ decode r (.unit .powerOff 0x01#8) = .ok .poff01 ∧
    decode r (.unit .flush 0x24#8) = .ok .writeRam)

/-- Decoding an encoded well-formed instruction gives it back, with every operand at every value. LUT and ACT have
command bytes that are open parameters: LUT needs its byte to be no fixed byte of the flush, ACT needs it to differ from
PON's. -/
def Obligations.DecodeEncodeAgree : Prop :=
  ∀ (r : Rom) (i : Instr), i.wellFormed = true →
    (i = .lut → decodeFixedUnit .flush r.lutCmd = none) → (i = .act → r.actCmd ≠ r.ponCmd) →
    decode r (encode r i) = .ok i

/-- What the decoder reads is well formed and encodes to what was read: a word has one meaning and no bit is dropped. -/
def Obligations.EncodeDecodeAgree : Prop :=
  ∀ (r : Rom) (e : Encoded) (i : Instr), decode r e = .ok i → i.wellFormed = true ∧ encode r i = e

/-- 30_encoding.md R77: a host word is legal only if it matches exactly one row, no word matches two rows, and a word
with a legal OP and a nonzero reserved bit matches none and is illegal. The reserved bits are those of R72 to R76. -/
def Obligations.HostWordLegality : Prop :=
  ∀ w : Word,
    (decodeHost w ≠ .illegal w ↔ (matching hostRows w).length = 1) ∧
    (matching hostRows w).length ≤ 1 ∧
    (hostWordLegal w = true ↔ (matching hostRows w).length = 1) ∧
    (hostWordLegal w = false → decodeHost w = .illegal w)

/-- 30_encoding.md R82: an FB word is illegal exactly when FOP is 11, a bit of 29:25 is 1, or ON is 1 with an FOP other
than 01; it matches no row of R80, and it changes nothing but the response, which is IllegalOp. The FB that answers is
the one a harness has alone (log 7). -/
def Obligations.FbWordLegality : Prop :=
  ∀ w : Word,
    (decodeFb w = .fbIllegal w ↔
      w.extractLsb' 30 2 = 3#2 ∨ w.extractLsb' 25 5 ≠ 0#5 ∨ (w.getLsbD 24 = true ∧ w.extractLsb' 30 2 ≠ 1#2)) ∧
    (decodeFb w = .fbIllegal w ↔ matching fbRows w = []) ∧
    (∀ s, exec (.fbIllegal w) s = .next { s with alone := { s.alone with code := 7#4, data := none } })

/-! ### Steps -/

/-- A step runs the decoded instruction: the word of the HOST's write to CMD, the harness's request word, and the unit of
ACTS[STEP] while an operation runs. The move is taken off the list, which is the model's own (log 2); nothing else is
added around exec. -/
def Obligations.StepRunsTheInstruction : Prop :=
  (∀ (s : State) (w : Word) (rest : List Move) (i : Instr),
    s.moves = .hostWrite { offset := 0, width := 4 } w :: rest → decode s.rom (.host w) = .ok i →
    step s = exec i { s with moves := rest }) ∧
  (∀ (s : State) (w : Word) (rest : List Move) (i : Instr),
    s.moves = .fbRequest w :: rest → decode s.rom (.fb w) = .ok i → step s = exec i { s with moves := rest }) ∧
  (∀ (s : State) (row : UnitRow) (u : PanelUnit),
    s.seq.phase ≠ .idle → currentAction s = some (.unit row u) →
    (s.moves = [] → step s = exec (rowInstr row) s) ∧
    (∀ rest, s.moves = .seq :: rest → step s = exec (rowInstr row) { s with moves := rest })) ∧
  (∀ (s : State), s.seq.phase ≠ .idle → currentAction s = some .xfer →
    (s.moves = [] → step s = exec .writeRam s) ∧
    (∀ rest, s.moves = .seq :: rest → step s = exec .writeRam { s with moves := rest }))

/-- The placed word of a table row is what the very next step runs: a 32-bit row on the state itself, a unit on the
state with the engine at its SEND (the model's own fetch, log 16). -/
def Obligations.PlacedWordRuns : Prop :=
  (∀ (s : State) (w : Nat) (i : Instr), decodeTableWord 32 w = some i → step (s.withFetchWord 32 w) = exec i s) ∧
  (∀ (s : State) (w : Nat) (i : Instr), decodeTableWord 8 w = some i →
    ∃ a, step (s.withFetchWord 8 w) = exec i { s with seq := { s.seq with phase := .send, step := 0#5, acts := [a] } })

/-! ### Reset -/

/-- 10_state.md R37: the state after reset. The FB bytes are unreadable: every read of the FB is refused. -/
def Obligations.ResetValues : Prop :=
  State.reset.status.word = 0x00000001#32 ∧
  State.reset.status = { ready := true, configured := false, wc := false, cl := false, code := 0#4, rdata := 0x00#8 } ∧
  State.reset.cancel = false ∧
  State.reset.cfg = { configured := false, w := 0#8, h := 0#8 } ∧
  State.reset.fb.cap = 0#16 ∧ (∀ k, State.reset.fb.readByte k = .ok none) ∧
  State.reset.seq = { phase := .idle, op := 0#3, mode := .full, step := 0#5, acts := [] } ∧
  State.reset.rom = Config.rom ∧ State.reset.port.req = false ∧ State.reset.trace = []

/-- 70_reset_and_hazards.md R230 and R233: reset, at any time, puts every piece of block state at the value of R37 in one
step, with CODE 0 and no result for a running operation; the ROM is unchanged and no FB byte can be read. That a later
reset empties the trace is the model's reading of R37 (log 9), and what it keeps of the world outside is log 10. -/
def Obligations.ResetAtAnyTime : Prop :=
  ∀ (s : State) (rest : List Move), s.moves = .reset :: rest →
    ∃ t, step s = .next t ∧ t.status = State.reset.status ∧ t.status.word = 0x00000001#32 ∧ t.cancel = false ∧
      t.cfg = State.reset.cfg ∧ t.fb.cap = 0#16 ∧ (∀ k, t.fb.readByte k = .ok none) ∧ t.seq = State.reset.seq ∧
      t.rom = s.rom ∧ t.xmax = s.xmax ∧ t.port.req = false ∧ t.trace = [] ∧ t.alone = s.alone ∧
      t.port.busy = s.port.busy ∧ t.port.resp = s.port.resp ∧ t.hostData = s.hostData ∧ t.moves = rest

/-- After reset the block is idle and waits: with no move of another agent, no step changes anything, however many are
taken (70_reset_and_hazards.md R231, R232). That a step of the idle block is a stutter is the model's choice (log 2). -/
def Obligations.IdleBlockWaits : Prop :=
  Host.Core.run core 1 State.reset = .next State.reset ∧
  ∀ (s : State) (k : Nat), s.seq.phase = .idle → s.moves = [] → Host.Core.run core k s = .next s

/-! ### Invariants and safety -/

/-- The invariants hold after reset. -/
def Obligations.ResetIsSound : Prop := BlockInv State.reset ∧ fiveInvariants State.reset

/-- Every step keeps the invariant of Safety.lean: the FB's capacity, canonical storage and written buffer, CAP = W * H
once configured and 0 before, READY and PHASE, REQ and PHASE, the legal codes, the cleared idle sequencer, and a running operation's list, STEP and OP. -/
def Obligations.StepKeepsInv : Prop := ∀ s t : State, BlockInv s → step s = .next t → BlockInv t

/-- The five invariants of 10_state.md R35 are kept by every step. -/
def Obligations.StepKeepsFiveInvariants : Prop :=
  ∀ s t : State, fiveInvariants s → step s = .next t → fiveInvariants t

/-- No sound state stops: a step always has a next state, unless the HOST makes an access of a form with no meaning. -/
def Obligations.SoundStatesStep : Prop :=
  ∀ s : State, BlockInv s → HostAccessesAligned s → ∃ t, step s = .next t

/-- A running operation's list, OP, MODE, configuration and buffer stay constant, and STEP stays or grows by one, until
the operation ends (10_state.md R29, R30; 20_memory.md R58). -/
def Obligations.OperationIsConstant : Prop :=
  ∀ s t : State, BlockInv s → s.seq.phase ≠ .idle → step s = .next t →
    t.seq.phase ≠ .idle →
    t.seq.acts = s.seq.acts ∧ t.seq.op = s.seq.op ∧ t.seq.mode = s.seq.mode ∧ t.cfg = s.cfg ∧ t.fb = s.fb ∧
      (t.seq.step.toNat = s.seq.step.toNat ∨ t.seq.step.toNat = s.seq.step.toNat + 1)

/-- The whole machine's writers (10_state.md R25, R26, R33; 40_framebuffer.md R106): the ROM and XMAX never change; CFG
changes only by a CREATE word or reset; the FB only by a CREATE or SETPIX word or reset; CANCEL only by a CTRL write or
reset; and the FB that a harness has alone changes only by its own requests, its buffer by FB_CREATE or FB_SET_BIT
(log 7). -/
def Obligations.OnlyTheNamedWriters : Prop :=
  ∀ s t : State, step s = .next t →
    t.rom = s.rom ∧ t.xmax = s.xmax ∧
    (t.cfg ≠ s.cfg → ∃ rest, s.moves = .reset :: rest ∨
      ∃ v w h, s.moves = .hostWrite { offset := 0, width := 4 } v :: rest ∧ decodeHost v = .create w h) ∧
    (t.fb ≠ s.fb → ∃ rest, s.moves = .reset :: rest ∨
      (∃ v, s.moves = .hostWrite { offset := 0, width := 4 } v :: rest ∧
        ((∃ w h, decodeHost v = .create w h) ∨ ∃ x y on, decodeHost v = .setpix x y on))) ∧
    (t.cancel ≠ s.cancel → ∃ rest, s.moves = .reset :: rest ∨
      ∃ v, s.moves = .hostWrite { offset := 8, width := 4 } v :: rest) ∧
    (t.alone ≠ s.alone → ∃ v rest, s.moves = .fbRequest v :: rest ∧
      (t.alone.fb ≠ s.alone.fb → (∃ c, decodeFb v = .fbCreate c) ∨ ∃ i on, decodeFb v = .fbSetBit i on))

/-! ### Host operations -/

/-- 41_panel_controller.md R121: a CMD write while READY is 0 is discarded, whatever the word; CL is set and nothing else
changes. -/
def Obligations.LostCommandSetsCl : Prop :=
  (∀ (s : State) (i : Instr), isHostWord i → s.status.ready = false →
    exec i s = .next { s with status := { s.status with cl := true } }) ∧
  (∀ (s : State) (w : Word) (rest : List Move), s.moves = .hostWrite { offset := 0, width := 4 } w :: rest →
    s.status.ready = false → step s = .next { s with moves := rest, status := { s.status with cl := true } })

/-- 41_panel_controller.md R122: CREATE while READY is 1. It fails with InvalidSize when W or H is 0 or W * H is no
multiple of 8, changing neither CFG nor FB; else it stores W and H, and the buffer is W * H bits, all 0. -/
def Obligations.CreateResult : Prop :=
  ∀ (s : State) (w h : BitVec 8), s.status.ready = true →
    if w.toNat = 0 ∨ h.toNat = 0 ∨ (w.toNat * h.toNat) % 8 ≠ 0 then
      exec (.create w h) s = .next (finished 1#4 (cleared s))
    else
      ∃ fb : Fb, fb.cap.toNat = w.toNat * h.toNat ∧
        (∀ k, fb.bytes.read k = if k < w.toNat * h.toNat / 8 then some 0x00#8 else s.fb.bytes.read k) ∧
        exec (.create w h) s = .next (finished 0#4
          { cleared s with
            fb := fb
            cfg := { configured := true, w := w, h := h }
            status := { (cleared s).status with configured := true } })

/-- 41_panel_controller.md R123: SETPIX while READY is 1, its checks in the order of 60_exceptions.md R207: NotConfigured,
OutOfBounds with inclusive bounds, InvalidIndex at Y * XMAX + X >= CAP, and else bit Y * XMAX + X takes the value ON and
every other bit stays. -/
def Obligations.SetpixResult : Prop :=
  ∀ (s : State) (x y : BitVec 8) (on : Bool), s.status.ready = true → FbSound s.fb →
    if s.cfg.configured = false then exec (.setpix x y on) s = .next (finished 6#4 (cleared s))
    else if x.toNat > s.cfg.w.toNat ∨ y.toNat > s.cfg.h.toNat then
      exec (.setpix x y on) s = .next (finished 3#4 (cleared s))
    else if y.toNat * s.xmax.toNat + x.toNat ≥ s.fb.cap.toNat then
      exec (.setpix x y on) s = .next (finished 2#4 (cleared s))
    else
      ∃ m : Memory,
        (∀ i, bitAt m i =
          if i = y.toNat * s.xmax.toNat + x.toNat then some on else bitAt s.fb.bytes i) ∧
        exec (.setpix x y on) s = .next (finished 0#4 { cleared s with fb := { s.fb with bytes := m } })

/-- 41_panel_controller.md R124: READFB while READY is 1: NotConfigured, InvalidIndex at K >= CAP div 8 with RDATA kept,
and else byte K in RDATA; the FB is unchanged. -/
def Obligations.ReadfbResult : Prop :=
  ∀ (s : State) (k : BitVec 13), s.status.ready = true → FbSound s.fb →
    if s.cfg.configured = false then exec (.readfb k) s = .next (finished 6#4 (cleared s))
    else if k.toNat ≥ s.fb.cap.toNat / 8 then exec (.readfb k) s = .next (finished 2#4 (cleared s))
    else
      ∃ v, s.fb.bytes.read k.toNat = some v ∧
        exec (.readfb k) s =
          .next (finished 0#4 { cleared s with status := { (cleared s).status with rdata := v } })

/-- FLUSH.FULL and FLUSH.PARTIAL while READY is 1 (41_panel_controller.md R125): NotConfigured with no unit, or OP 3, the
latched MODE, that mode's list and STEP 0, and the engine starts with READY 0. -/
def Obligations.FlushStarts : Prop :=
  ∀ s : State, s.status.ready = true →
    (s.cfg.configured = false →
      exec .flushFull s = .next (finished 6#4 (cleared s)) ∧ exec .flushPartial s = .next (finished 6#4 (cleared s))) ∧
    (s.cfg.configured = true →
      exec .flushFull s = .next (started 3#3 .full (fullActs s.rom s.cfg.w s.cfg.h) (cleared s)) ∧
      exec .flushPartial s = .next (started 3#3 .partial_ (partialActs s.rom s.cfg.w s.cfg.h) (cleared s)))

/-- PWRON and PWROFF while READY is 1 start their lists, configured or not (41_panel_controller.md R126, R127). -/
def Obligations.PowerOperationsStart : Prop :=
  ∀ s : State, s.status.ready = true →
    exec .pwron s = .next (started 4#3 s.seq.mode (ponActs s.rom) (cleared s)) ∧
    exec .pwroff s = .next (started 5#3 s.seq.mode (poffActs s.rom) (cleared s))

/-- 41_panel_controller.md R128: an illegal word while READY is 1 completes with IllegalOp; no CFG or FB state changes
and no unit is emitted. -/
def Obligations.IllegalWordCompletes : Prop :=
  ∀ (s : State) (w : Word), s.status.ready = true →
    exec (.illegal w) s = .next (finished 7#4 (cleared s)) ∧
    (finished 7#4 (cleared s)).cfg = s.cfg ∧ (finished 7#4 (cleared s)).fb = s.fb ∧
    (finished 7#4 (cleared s)).trace = s.trace ∧
    (BlockInv s → (finished 7#4 (cleared s)).seq = s.seq)

/-- CREATE, SETPIX, READFB and illegal words neither use nor change the panel port: with other port signals the same
step happens, and no unit is emitted (41_panel_controller.md R135). -/
def Obligations.BufferWordsIgnoreThePanel : Prop :=
  ∀ (s t : State) (i : Instr) (p : Port), isBufferWord i → exec i s = .next t →
    t.trace = s.trace ∧ t.port = s.port ∧ exec i { s with port := p } = .next { t with port := p }

/-- An error of an immediate operation is precise: CFG, FB and everything but the flags of STATUS stay as they were
(60_exceptions.md R209; 41_panel_controller.md R133, law 4). -/
def Obligations.HostErrorsArePrecise : Prop :=
  ∀ (s t : State) (i : Instr), BlockInv s → isHostWord i → s.status.ready = true → exec i s = .next t →
    t.status.code ≠ 0#4 →
    t = { s with status := { s.status with wc := false, cl := false, code := t.status.code } }

/-! ### Host registers -/

/-- CTRL and the other register writes (41_panel_controller.md R129; 10_state.md R24, R25; 20_memory.md R56): a write of
CTRL stores bit 0 and touches nothing else, in any PHASE; a write of STATUS or of a reserved offset changes nothing. -/
def Obligations.RegisterWrites : Prop :=
  ∀ (s : State) (offset : Nat) (v : Word) (rest : List Move), offset % 4 = 0 →
    s.moves = .hostWrite { offset := offset, width := 4 } v :: rest → offset ≠ 0 →
    step s = .next (if offset = 8 then { s with moves := rest, cancel := v.getLsbD 0 } else { s with moves := rest })

/-- Register reads (41_panel_controller.md R130; 10_state.md R22, R23; 20_memory.md R56, R57): STATUS returns its word,
CTRL the zero-extended CANCEL, CMD and the reserved offsets 0; the block does not change. The word stands in the model's
own `hostData` (log 17). -/
def Obligations.RegisterReads : Prop :=
  ∀ (s : State) (offset : Nat) (rest : List Move), offset % 4 = 0 →
    s.moves = .hostRead { offset := offset, width := 4 } :: rest →
    step s = .next { s with
      moves := rest
      hostData :=
        if offset = 4 then s.status.word
        else if offset = 8 then BitVec.zeroExtend 32 (BitVec.ofBool s.cancel)
        else 0x00000000#32 }

/-- 20_memory.md R55: an access that is narrower or wider than 32 bits, or misaligned, is refused; an aligned 32-bit
access is not. -/
def Obligations.OnlyAlignedWordsHaveMeaning : Prop :=
  ∀ (s : State) (a : Access) (rest : List Move),
    (a.width ≠ 4 ∨ a.offset % 4 ≠ 0 →
      (s.moves = .hostRead a :: rest → step s = .refused .hostAccessForm) ∧
      (∀ v, s.moves = .hostWrite a v :: rest → step s = .refused .hostAccessForm)) ∧
    (a.width = 4 → a.offset % 4 = 0 → s.moves = .hostRead a :: rest → ∃ t, step s = .next t)

/-- The STATUS word bit by bit (10_state.md R24): READY, CONFIGURED, WC, CL, CODE, RDATA in their places, 0 elsewhere. -/
def Obligations.StatusWordLayout : Prop :=
  ∀ t : Status,
    t.word.getLsbD 0 = t.ready ∧ t.word.getLsbD 1 = t.configured ∧ t.word.getLsbD 2 = t.wc ∧ t.word.getLsbD 3 = t.cl ∧
    t.word.extractLsb' 4 4 = 0#4 ∧ t.word.extractLsb' 8 4 = t.code ∧ t.word.extractLsb' 12 4 = 0#4 ∧
    t.word.extractLsb' 16 8 = t.rdata ∧ t.word.extractLsb' 24 8 = 0#8

/-- A CTRL write and a poll in the same instant: either order may happen, and the poll sees CANCEL before or after the
write accordingly (60_exceptions.md R208). -/
def Obligations.CancelAndPollEitherOrder : Prop :=
  ∀ (s : State) (row : UnitRow) (u : PanelUnit) (rest : List Move), s.seq.phase = .wait →
    currentAction s = some (.unit row u) → s.port.busy = true → s.cancel = false →
    Host.Core.run core 2
      { s with moves := .hostWrite { offset := 8, width := 4 } 1#32 :: .seq :: rest } =
        .next { inPhase .send s with
          moves := rest, cancel := true, status := { s.status with wc := true } } ∧
    Host.Core.run core 2
      { s with moves := .seq :: .hostWrite { offset := 8, width := 4 } 1#32 :: rest } =
        .next { s with moves := rest, cancel := true }

/-! ### Frame buffer -/

/-- 20_memory.md R52, with the mapping of R51: FbWriteBit changes only bit i mod 8 of byte i div 8, to the given value,
and leaves every other bit of the FB as it was. -/
def Obligations.WriteBitChangesOneBit : Prop :=
  ∀ (m : Memory) (i : Nat) (b : Bool), i / 8 < Config.fbMaxBytes → (m.read (i / 8)).isSome = true →
    ∃ m', fbWriteBit m i b = .ok m' ∧ (∀ j, bitAt m' j = if j = i then some b else bitAt m j) ∧
      (∀ k, k ≠ i / 8 → m'.read k = m.read k)

/-- 40_framebuffer.md R100: FB_CREATE(c), on the FB that a harness has alone (log 7). InvalidSize, with no FB change,
unless c is a multiple of 8 of at most 65024; else CAP is c and its bytes are 0. Nothing of the block changes. -/
def Obligations.FbCreateResult : Prop :=
  ∀ (s : State) (c : BitVec 24),
    if c.toNat % 8 ≠ 0 ∨ c.toNat > 65024 then
      exec (.fbCreate c) s = .next { s with alone := { s.alone with code := 1#4, data := none } }
    else
      ∃ fb : Fb, fb.cap.toNat = c.toNat ∧
        (∀ k, fb.bytes.read k = if k < c.toNat / 8 then some 0x00#8 else s.alone.fb.bytes.read k) ∧
        exec (.fbCreate c) s = .next { s with alone := { fb := fb, code := 0#4, data := none } }

/-- 40_framebuffer.md R101: FB_SET_BIT(i, on), on the FB that a harness has alone (log 7). InvalidIndex, with no FB change,
when i >= CAP; else bit i takes the value on (it does not toggle) and every other bit stays. -/
def Obligations.FbSetBitResult : Prop :=
  ∀ (s : State) (i : BitVec 24) (on : Bool), FbSound s.alone.fb →
    if i.toNat ≥ s.alone.fb.cap.toNat then
      exec (.fbSetBit i on) s = .next { s with alone := { s.alone with code := 2#4, data := none } }
    else
      ∃ m : Memory, (∀ j, bitAt m j = if j = i.toNat then some on else bitAt s.alone.fb.bytes j) ∧
        exec (.fbSetBit i on) s =
          .next { s with alone := { fb := { s.alone.fb with bytes := m }, code := 0#4, data := none } }

/-- 40_framebuffer.md R102: FB_READ(k), on the FB that a harness has alone (log 7). InvalidIndex when k >= CAP div 8, else
byte k; no FB state changes. -/
def Obligations.FbReadResult : Prop :=
  ∀ (s : State) (k : BitVec 24), FbSound s.alone.fb →
    if k.toNat ≥ s.alone.fb.cap.toNat / 8 then
      exec (.fbRead k) s = .next { s with alone := { s.alone with code := 2#4, data := none } }
    else
      ∃ v, s.alone.fb.bytes.read k.toNat = some v ∧
        exec (.fbRead k) s = .next { s with alone := { s.alone with code := 0#4, data := some v } }

/-- 40_framebuffer.md R103: asBytes() has CAP div 8 bytes, and its k-th is byte k of the buffer; a prefix of it is the
first n of them. -/
def Obligations.AsBytesIsTheBuffer : Prop :=
  ∀ (fb : Fb) (n : Nat), FbSound fb → n ≤ fb.cap.toNat / 8 →
    ∃ bs, fb.asBytes n = .ok bs ∧ bs.length = n ∧ (∀ k, k < n → bs[k]? = fb.bytes.read k) ∧
      ∀ all, fb.asBytes (fb.cap.toNat / 8) = .ok all → bs = all.take n

/-- The laws of setting bits (40_framebuffer.md R104, laws 3 to 5): setting a bit twice is as once, clearing it after
setting restores the FB if the bit was 0, and writes of two bits commute. -/
def Obligations.SetBitLaws : Prop :=
  ∀ (fb : Fb) (i j : Nat) (b c : Bool) (fb1 : Fb), FbSound fb → i < fb.cap.toNat → j < fb.cap.toNat →
    fb.setBit i b = .ok (.ok, fb1) →
    fb1.setBit i b = .ok (.ok, fb1) ∧
    (bitAt fb.bytes i = some false → b = true → fb1.setBit i false = .ok (.ok, fb)) ∧
    (i ≠ j → ∃ fb2 fb3, fb.setBit j c = .ok (.ok, fb2) ∧ fb1.setBit j c = .ok (.ok, fb3) ∧
      fb2.setBit i b = .ok (.ok, fb3))

/-- 40_framebuffer.md R105: an FB request that returns InvalidSize, InvalidIndex or IllegalOp leaves CAP and every byte
of the FB as they were; the FB is the one a harness has alone (log 7). -/
def Obligations.FailedRequestChangesNothing : Prop :=
  ∀ (s t : State) (w : Word), exec (decodeFb w) s = .next t →
    t.alone.code = 1#4 ∨ t.alone.code = 2#4 ∨ t.alone.code = 7#4 → t.alone.fb = s.alone.fb

/-- A harness's FB request changes nothing but the FB it has alone and that FB's response (30_encoding.md R81;
40_framebuffer.md R100 to R102, flags written: none; R106; log 7). -/
def Obligations.FbRequestFrame : Prop :=
  ∀ (s t : State) (w : Word), exec (decodeFb w) s = .next t →
    t = { s with alone := t.alone } ∧ (FbSound s.alone.fb → FbSound t.alone.fb)

/-! ### Pixel and transfer arithmetic -/

/-- The arithmetic stays in its ranges (41_panel_controller.md R132; 42_command_protocol.md R167): the pixel index is
below 2^24, XB is 1..32 and N is 1..8160 for W and H at least 1, and the high byte of H - 1 is always 0. -/
def Obligations.ArithmeticRanges : Prop :=
  ∀ (xmax : BitVec 16) (x y w h : BitVec 8),
    pixelIndex xmax x y < 2 ^ 24 ∧
    (1 ≤ w.toNat → 1 ≤ rowBytes w ∧ rowBytes w ≤ 32 ∧ (lastColumn w).toNat + 1 = rowBytes w) ∧
    (1 ≤ w.toNat → 1 ≤ h.toNat → 1 ≤ transferBytes w h ∧ transferBytes w h ≤ 8160) ∧
    lastRowHigh h = 0x00#8 ∧ (1 ≤ h.toNat → (lastRowLow h).toNat + 1 = h.toNat)

/-- Laws of SETPIX (41_panel_controller.md R133, laws 1 and 2): with XMAX >= W every pixel of row H fails with
InvalidIndex; with XMAX = W and W a multiple of 8, pixel (x, y) is bit x mod 8 of byte y * (W div 8) + x div 8. -/
def Obligations.SetpixLaws : Prop :=
  ∀ (s : State) (x y : BitVec 8) (on : Bool), BlockInv s → s.status.ready = true → s.cfg.configured = true →
    (s.xmax.toNat ≥ s.cfg.w.toNat → x.toNat ≤ s.cfg.w.toNat →
      exec (.setpix x s.cfg.h on) s = .next (finished 2#4 (cleared s))) ∧
    (s.xmax.toNat = s.cfg.w.toNat → s.cfg.w.toNat % 8 = 0 → x.toNat < s.cfg.w.toNat → y.toNat < s.cfg.h.toNat →
      ∃ t old, exec (.setpix x y on) s = .next t ∧
        s.fb.bytes.read (y.toNat * (s.cfg.w.toNat / 8) + x.toNat / 8) = some old ∧
        ∃ new, t.fb.bytes.read (y.toNat * (s.cfg.w.toNat / 8) + x.toNat / 8) = some new ∧
          ∀ b, b < 8 → new.getLsbD b = if b = x.toNat % 8 then on else old.getLsbD b)

/-- The overrun law (42_command_protocol.md R157): in a configured state N > CAP div 8 exactly when W is no multiple of
8, and then the XFER action's START completes with BufferOverrun, sending nothing; else it goes on to its wait, and N is
CAP div 8. -/
def Obligations.OverrunLaw : Prop :=
  ∀ s : State, BlockInv s → s.cfg.configured = true →
    (transferBytes s.cfg.w s.cfg.h > s.fb.cap.toNat / 8 ↔ s.cfg.w.toNat % 8 ≠ 0) ∧
    (s.cfg.w.toNat % 8 = 0 → transferBytes s.cfg.w s.cfg.h = s.fb.cap.toNat / 8) ∧
    (s.seq.phase = .start →
      exec .writeRam s = .next (if s.cfg.w.toNat % 8 ≠ 0 then finished 5#4 s else inPhase .wait s))

/-! ### Action lists -/

/-- FULL_ACTS and PARTIAL_ACTS written out, with the payloads of R167 and R168 (42_command_protocol.md R165, R166). -/
def Obligations.FlushListsWrittenOut : Prop :=
  ∀ (r : Rom) (w h : BitVec 8),
    fullActs r w h =
      [ .unit .init01 ⟨0x01#8, r.initData01⟩, .unit .init0C ⟨0x0C#8, r.initData0C⟩,
        .unit .init2C ⟨0x2C#8, r.initData2C⟩, .unit .init3A ⟨0x3A#8, r.initData3A⟩,
        .unit .init3B ⟨0x3B#8, r.initData3B⟩, .unit .init11 ⟨0x11#8, r.initData11⟩,
        .unit .lut ⟨r.lutCmd, r.lutFull.toList⟩, .unit .pon ⟨r.ponCmd, r.ponData⟩, .unit .act ⟨r.actCmd, r.actData⟩,
        .waitOnly,
        .unit .ramXptr ⟨0x4E#8, [BitVec.ofNat 8 (ceil8 w.toNat / 8 - 1)]⟩,
        .unit .ramYptr ⟨0x4F#8, [BitVec.ofNat 8 (h.toNat - 1), 0x00#8]⟩, .xfer,
        .unit .update ⟨0x22#8, [0xC7#8]⟩, .unit .sync20 ⟨0x20#8, []⟩, .unit .syncFF ⟨0xFF#8, []⟩ ] ∧
    partialActs r w h =
      [ .unit .init01 ⟨0x01#8, r.initData01⟩, .unit .init0C ⟨0x0C#8, r.initData0C⟩,
        .unit .init2C ⟨0x2C#8, r.initData2C⟩, .unit .init3A ⟨0x3A#8, r.initData3A⟩,
        .unit .init3B ⟨0x3B#8, r.initData3B⟩, .unit .init11 ⟨0x11#8, r.initData11⟩,
        .unit .lut ⟨r.lutCmd, r.lutPartial.toList⟩, .unit .pon ⟨r.ponCmd, r.ponData⟩,
        .unit .act ⟨r.actCmd, r.actData⟩, .waitOnly,
        .unit .ramXwin ⟨0x44#8, [0x00#8, BitVec.ofNat 8 (ceil8 w.toNat / 8 - 1)]⟩,
        .unit .ramYwin ⟨0x45#8, [0x00#8, 0x00#8, BitVec.ofNat 8 (h.toNat - 1), 0x00#8]⟩,
        .unit .ramXptr ⟨0x4E#8, [0x00#8]⟩, .unit .ramYptr ⟨0x4F#8, [0x00#8, 0x00#8]⟩, .xfer,
        .unit .update ⟨0x22#8, [0x04#8]⟩, .unit .sync20 ⟨0x20#8, []⟩, .unit .syncFF ⟨0xFF#8, []⟩ ]

/-! ### The engine -/

/-- 42_command_protocol.md R151, for every unit but WRITE_RAM and for WAITONLY: START goes to WAIT and nothing else
changes; XFER completes with BufferOverrun if N exceeds CAP div 8, and else goes to WAIT. -/
def Obligations.StartBeginsWithAWait : Prop :=
  ∀ s : State, s.seq.phase = .start →
    (∀ row, exec (rowInstr row) s = .next (inPhase .wait s)) ∧
    waitOnlyStep s = inPhase .wait s ∧
    exec .writeRam s =
      .next (if transferBytes s.cfg.w s.cfg.h > s.fb.cap.toNat / 8 then finished 5#4 s else inPhase .wait s)

/-- 42_command_protocol.md R152 for every unit, WRITE_RAM included: a poll proceeds to SEND when BUSY is 0, proceeds with
WC set when BUSY is 1 and CANCEL is 1, and else changes nothing. A cancelled wait writes no code (R192). -/
def Obligations.WaitPolls : Prop :=
  ∀ (s : State) (i : Instr), s.seq.phase = .wait → isUnit i →
    exec i s = .next
      (if s.port.busy = false then inPhase .send s
       else if s.cancel = true then inPhase .send { s with status := { s.status with wc := true } }
       else s)

/-- A WAITONLY action's poll advances instead (42_command_protocol.md R152, R155): to the next action, or to the end of
the operation with OK; it sends nothing. -/
def Obligations.WaitOnlyAdvances : Prop :=
  ∀ (s : State), BlockInv s → s.moves = [] → s.seq.phase = .wait → currentAction s = some .waitOnly →
    (s.port.busy = true → s.cancel = false → step s = .next s) ∧
    (s.port.busy = false ∨ s.cancel = true →
      step s = .next
        (if s.seq.step.toNat + 1 = s.seq.acts.length then
          finished 0#4 { s with status := { s.status with wc := s.status.wc || s.port.busy } }
        else
          { s with
            status := { s.status with wc := s.status.wc || s.port.busy }
            seq := { s.seq with phase := .start, step := s.seq.step + 1#5 } }))

/-- The initialise units at SEND (42_command_protocol.md R153, R170 to R175). -/
def Obligations.InitUnitsSend : Prop :=
  ∀ s : State, s.seq.phase = .send →
    exec .init01 s = .next (presented 0x01#8 s.rom.initData01 s) ∧
    exec .init0C s = .next (presented 0x0C#8 s.rom.initData0C s) ∧
    exec .init2C s = .next (presented 0x2C#8 s.rom.initData2C s) ∧
    exec .init3A s = .next (presented 0x3A#8 s.rom.initData3A s) ∧
    exec .init3B s = .next (presented 0x3B#8 s.rom.initData3B s) ∧
    exec .init11 s = .next (presented 0x11#8 s.rom.initData11 s)

/-- LUT, PON, ACT, UPDATE and the two synchronization units at SEND (42_command_protocol.md R153, R176 to R178, R184 to
R186); the LUT has 29 bytes. -/
def Obligations.ModeAndPowerUnitsSend : Prop :=
  ∀ s : State, s.seq.phase = .send →
    (∃ d, d.length = 29 ∧ exec .lut s = .next (presented s.rom.lutCmd d s) ∧
      (s.seq.mode = .full → d = s.rom.lutFull.toList) ∧ (s.seq.mode = .partial_ → d = s.rom.lutPartial.toList)) ∧
    exec .pon s = .next (presented s.rom.ponCmd s.rom.ponData s) ∧
    exec .act s = .next (presented s.rom.actCmd s.rom.actData s) ∧
    (s.seq.mode = .full → exec .update s = .next (presented 0x22#8 [0xC7#8] s)) ∧
    (s.seq.mode = .partial_ → exec .update s = .next (presented 0x22#8 [0x04#8] s)) ∧
    exec .sync20 s = .next (presented 0x20#8 [] s) ∧
    exec .syncFF s = .next (presented 0xFF#8 [] s)

/-- The RAM addressing units at SEND (42_command_protocol.md R153, R179 to R182): x in byte columns, y low byte first
with the high byte always 0x00. -/
def Obligations.AddressingUnitsSend : Prop :=
  ∀ s : State, s.seq.phase = .send →
    (exec .ramXwin s = .next (presented 0x44#8 [0x00#8, BitVec.ofNat 8 (ceil8 s.cfg.w.toNat / 8 - 1)] s) ∧
      exec .ramYwin s = .next (presented 0x45#8 [0x00#8, 0x00#8, BitVec.ofNat 8 (s.cfg.h.toNat - 1), 0x00#8] s)) ∧
    (s.seq.mode = .full →
      exec .ramXptr s = .next (presented 0x4E#8 [BitVec.ofNat 8 (ceil8 s.cfg.w.toNat / 8 - 1)] s) ∧
      exec .ramYptr s = .next (presented 0x4F#8 [BitVec.ofNat 8 (s.cfg.h.toNat - 1), 0x00#8] s)) ∧
    (s.seq.mode = .partial_ →
      exec .ramXptr s = .next (presented 0x4E#8 [0x00#8] s) ∧
      exec .ramYptr s = .next (presented 0x4F#8 [0x00#8, 0x00#8] s))

/-- The power-off units at SEND (42_command_protocol.md R153, R187 to R190). -/
def Obligations.PowerOffUnitsSend : Prop :=
  ∀ s : State, s.seq.phase = .send →
    exec .poff12 s = .next (presented 0x12#8 s.rom.poffData12 s) ∧
    exec .poff82 s = .next (presented 0x82#8 s.rom.poffData82 s) ∧
    exec .poff01 s = .next (presented 0x01#8 s.rom.poffData01 s) ∧
    exec .poff02 s = .next (presented 0x02#8 s.rom.poffData02 s)

/-- WRITE_RAM at SEND (42_command_protocol.md R153, R156, R183): 0x24 with the buffer's first N bytes, byte 0 first. -/
def Obligations.WriteRamSendsTheBuffer : Prop :=
  ∀ s : State, FbSound s.fb → s.seq.phase = .send → transferBytes s.cfg.w s.cfg.h ≤ s.fb.cap.toNat / 8 →
    ∃ d, d.length = transferBytes s.cfg.w s.cfg.h ∧ (∀ k, k < d.length → d[k]? = s.fb.bytes.read k) ∧
      exec .writeRam s = .next (presented 0x24#8 d s)

/-- 42_command_protocol.md R154 for every unit, WRITE_RAM included: OK is recorded, REQ falls and the engine advances, or
completes with OK after the last action; FAIL is recorded, REQ falls and the operation ends with TransportFailure; with
no answer nothing changes, whatever CANCEL is (R191). -/
def Obligations.AnswerAdvancesOrEnds : Prop :=
  ∀ (s : State) (i : Instr), BlockInv s → s.seq.phase = .resp → isUnit i →
    (s.port.resp = .none → exec i s = .next s) ∧
    (s.port.resp = .ok →
      exec i s = .next
        (if s.seq.step.toNat + 1 = s.seq.acts.length then
          finished 0#4 { s with trace := s.trace ++ [.ok], port := { s.port with req := false } }
        else
          { s with
            trace := s.trace ++ [.ok]
            port := { s.port with req := false }
            seq := { s.seq with phase := .start, step := s.seq.step + 1#5 } })) ∧
    (s.port.resp = .fail →
      exec i s =
        .next (finished 4#4 { s with trace := s.trace ++ [.fail], port := { s.port with req := false } }))

/-- 42_command_protocol.md R153: what a step of the running block presents at SEND is the unit (c, d) of ACTS[STEP], and
for XFER the unit (0x24, asBytes()[0..N)), N bytes long. It ties the payload rules R170 to R190 to the action lists R158 to R166. -/
def Obligations.SendPresentsTheCurrentAction : Prop :=
  ∀ s : State, BlockInv s → s.moves = [] → s.seq.phase = .send →
    (∀ row u, currentAction s = some (.unit row u) → step s = .next (presented u.cmd u.data s)) ∧
    (currentAction s = some .xfer →
      ∃ d, s.fb.asBytes (transferBytes s.cfg.w s.cfg.h) = .ok d ∧ d.length = transferBytes s.cfg.w s.cfg.h ∧
        step s = .next (presented 0x24#8 d s))

/-- A unit's step leaves the configuration, the buffer, the parameters, CTRL, the other agents' state and STATUS.RDATA,
CONFIGURED and CL as they were (41_panel_controller.md R125, corner cases; 42_command_protocol.md part 3). -/
def Obligations.UnitFrame : Prop :=
  ∀ (s t : State) (i : Instr), isUnit i → exec i s = .next t →
    t = { s with status := t.status, seq := t.seq, port := t.port, trace := t.trace } ∧
    t.status.rdata = s.status.rdata ∧ t.status.configured = s.status.configured ∧ t.status.cl = s.status.cl ∧
    t.port.busy = s.port.busy ∧ t.port.resp = s.port.resp ∧ t.seq.mode = s.seq.mode

/-- 20_memory.md R61: one step adds at most one event to the trace and never takes one away, a unit is sent only when no
unit is outstanding, and an answer is recorded only for the outstanding one; reset aside. -/
def Obligations.OneUnitOutstanding : Prop :=
  ∀ s t : State, BlockInv s → (∀ rest, s.moves ≠ .reset :: rest) → step s = .next t →
    (t.trace = s.trace ∧ t.port.req = s.port.req) ∨
    (∃ c d, t.trace = s.trace ++ [.sent c d] ∧ s.port.req = false ∧ t.port.req = true) ∨
    ((t.trace = s.trace ++ [.ok] ∨ t.trace = s.trace ++ [.fail]) ∧ s.port.req = true ∧ t.port.req = false)

/-- 42_command_protocol.md R191: the two holds that may never lift. In WAIT with BUSY 1 and CANCEL 0, and in RESP with no
answer whatever CANCEL is, any number of steps changes nothing; there is no timeout. BUSY falling or CANCEL rising lifts
the first, an answer the second. -/
def Obligations.HoldsMayLastForEver : Prop :=
  ∀ s : State, BlockInv s → s.moves = [] →
    (s.seq.phase = .wait → s.port.busy = true → s.cancel = false →
      (∀ k, Host.Core.run core k s = .next s) ∧
      (∃ t, Host.Core.run core 2 { s with moves := [.panelBusy false, .seq] } = .next t ∧ t.seq.phase ≠ .wait) ∧
      (∃ t, Host.Core.run core 2
        { s with moves := [.hostWrite { offset := 8, width := 4 } 1#32, .seq] } = .next t ∧ t.seq.phase ≠ .wait)) ∧
    (s.seq.phase = .resp → s.port.resp = .none →
      (∀ k, Host.Core.run core k s = .next s) ∧
      (∀ k, Host.Core.run core k { s with cancel := true } = .next { s with cancel := true }) ∧
      (∃ t, Host.Core.run core 2 { s with moves := [.panelResp .ok, .seq] } = .next t ∧ t.seq.phase ≠ .resp) ∧
      (∃ t, Host.Core.run core 2 { s with moves := [.panelResp .fail, .seq] } = .next t ∧ t.seq.phase ≠ .resp))

/-! ### Whole operations -/

/-- PWRON and PWROFF with the panel answering OK: their units in order, then CODE 0 and READY 1 (41_panel_controller.md
R126, R127; 42_command_protocol.md R159, R160, R169). One RESP left at OK answers every unit (log 3). -/
def Obligations.PowerOperationsRun : Prop :=
  ∀ s : State, panelAlwaysOk s → s.status.ready = true →
    (∃ t u, exec .pwron s = .next t ∧ Host.Core.run core 10 t = .next u ∧
      u.trace = s.trace ++ allOk [(s.rom.ponCmd, s.rom.ponData), (s.rom.actCmd, s.rom.actData)] ∧
      u.status = { s.status with ready := true, wc := false, cl := false, code := 0#4 } ∧ u.fb = s.fb ∧ u.cfg = s.cfg) ∧
    (∃ t u, exec .pwroff s = .next t ∧ Host.Core.run core 16 t = .next u ∧
      u.trace = s.trace ++ allOk [(0x12#8, s.rom.poffData12), (0x82#8, s.rom.poffData82), (0x01#8, s.rom.poffData01),
        (0x02#8, s.rom.poffData02)] ∧
      u.status = { s.status with ready := true, wc := false, cl := false, code := 0#4 } ∧ u.fb = s.fb ∧ u.cfg = s.cfg)

/-- FLUSH.FULL with the panel answering OK, W a multiple of 8 and the buffer bs: exactly the 15 units of
42_command_protocol.md R165 in order, the buffer among them whole, then CODE 0 and READY 1. One RESP left at OK answers
every unit (log 3). -/
def Obligations.FullFlushRuns : Prop :=
  ∀ s : State, BlockInv s → panelAlwaysOk s → s.status.ready = true → s.cfg.configured = true →
    s.cfg.w.toNat % 8 = 0 →
    ∃ t u bs, exec .flushFull s = .next t ∧ Host.Core.run core 62 t = .next u ∧
      s.fb.asBytes (s.fb.cap.toNat / 8) = .ok bs ∧
      u.trace = s.trace ++ allOk (initUnits s.rom ++
        [(s.rom.lutCmd, s.rom.lutFull.toList), (s.rom.ponCmd, s.rom.ponData), (s.rom.actCmd, s.rom.actData),
         (0x4E#8, [BitVec.ofNat 8 (s.cfg.w.toNat / 8 - 1)]), (0x4F#8, [BitVec.ofNat 8 (s.cfg.h.toNat - 1), 0x00#8]),
         (0x24#8, bs), (0x22#8, [0xC7#8]), (0x20#8, []), (0xFF#8, [])]) ∧
      u.status = { s.status with ready := true, wc := false, cl := false, code := 0#4 } ∧ u.fb = s.fb ∧ u.cfg = s.cfg

/-- FLUSH.PARTIAL with the panel answering OK, W a multiple of 8 and the buffer bs: exactly the 17 units of
42_command_protocol.md R166 in order, then CODE 0 and READY 1. One RESP left at OK answers every unit (log 3). -/
def Obligations.PartialFlushRuns : Prop :=
  ∀ s : State, BlockInv s → panelAlwaysOk s → s.status.ready = true → s.cfg.configured = true →
    s.cfg.w.toNat % 8 = 0 →
    ∃ t u bs, exec .flushPartial s = .next t ∧ Host.Core.run core 70 t = .next u ∧
      s.fb.asBytes (s.fb.cap.toNat / 8) = .ok bs ∧
      u.trace = s.trace ++ allOk (initUnits s.rom ++
        [(s.rom.lutCmd, s.rom.lutPartial.toList), (s.rom.ponCmd, s.rom.ponData), (s.rom.actCmd, s.rom.actData),
         (0x44#8, [0x00#8, BitVec.ofNat 8 (s.cfg.w.toNat / 8 - 1)]),
         (0x45#8, [0x00#8, 0x00#8, BitVec.ofNat 8 (s.cfg.h.toNat - 1), 0x00#8]),
         (0x4E#8, [0x00#8]), (0x4F#8, [0x00#8, 0x00#8]),
         (0x24#8, bs), (0x22#8, [0x04#8]), (0x20#8, []), (0xFF#8, [])]) ∧
      u.status = { s.status with ready := true, wc := false, cl := false, code := 0#4 } ∧ u.fb = s.fb ∧ u.cfg = s.cfg

/-- A FLUSH whose W is no multiple of 8, with the panel answering OK: every unit before the XFER (11 in Full mode, 13 in
Partial), then BufferOverrun; the buffer is never sent (42_command_protocol.md R157). One RESP left at OK answers every
unit (log 3). -/
def Obligations.UnalignedFlushOverruns : Prop :=
  ∀ s : State, BlockInv s → panelAlwaysOk s → s.status.ready = true → s.cfg.configured = true →
    s.cfg.w.toNat % 8 ≠ 0 →
    (∃ t u, exec .flushFull s = .next t ∧ Host.Core.run core 47 t = .next u ∧
      u.trace = s.trace ++ allOk (initUnits s.rom ++
        [(s.rom.lutCmd, s.rom.lutFull.toList), (s.rom.ponCmd, s.rom.ponData), (s.rom.actCmd, s.rom.actData),
         (0x4E#8, [BitVec.ofNat 8 (s.cfg.w.toNat / 8)]), (0x4F#8, [BitVec.ofNat 8 (s.cfg.h.toNat - 1), 0x00#8])]) ∧
      u.status = { s.status with ready := true, wc := false, cl := false, code := 5#4 } ∧ u.fb = s.fb ∧ u.cfg = s.cfg) ∧
    (∃ t u, exec .flushPartial s = .next t ∧ Host.Core.run core 55 t = .next u ∧
      u.trace = s.trace ++ allOk (initUnits s.rom ++
        [(s.rom.lutCmd, s.rom.lutPartial.toList), (s.rom.ponCmd, s.rom.ponData), (s.rom.actCmd, s.rom.actData),
         (0x44#8, [0x00#8, BitVec.ofNat 8 (s.cfg.w.toNat / 8)]),
         (0x45#8, [0x00#8, 0x00#8, BitVec.ofNat 8 (s.cfg.h.toNat - 1), 0x00#8]),
         (0x4E#8, [0x00#8]), (0x4F#8, [0x00#8, 0x00#8])]) ∧
      u.status = { s.status with ready := true, wc := false, cl := false, code := 5#4 } ∧ u.fb = s.fb ∧ u.cfg = s.cfg)

/-! ### The FB inside the block and the FB alone -/

/-- 40_framebuffer.md R106: CREATE, SETPIX and READFB reach the block's FB as FB_CREATE, FB_SET_BIT and FB_READ do. On an
FB alone that is equal to the block's, the request with the operation's own argument leaves the same FB, answers the code
that the operation completes with, and reads the byte that READFB puts in RDATA. Holding the FB alone apart from the
block's is the model's (log 7). -/
def Obligations.HostWordsActAsFbRequests : Prop :=
  ∀ s t : State, s.status.ready = true → s.alone.fb = s.fb →
    (∀ w h : BitVec 8, 1 ≤ w.toNat → 1 ≤ h.toNat → exec (.create w h) s = .next t →
      ∃ u, exec (.fbCreate (BitVec.ofNat 24 (w.toNat * h.toNat))) s = .next u ∧ u.alone.fb = t.fb ∧
        u.alone.code = t.status.code) ∧
    (∀ (x y : BitVec 8) (on : Bool), s.cfg.configured = true → x.toNat ≤ s.cfg.w.toNat → y.toNat ≤ s.cfg.h.toNat →
      exec (.setpix x y on) s = .next t →
      ∃ u, exec (.fbSetBit (BitVec.ofNat 24 (y.toNat * s.xmax.toNat + x.toNat)) on) s = .next u ∧ u.alone.fb = t.fb ∧
        u.alone.code = t.status.code) ∧
    (∀ k : BitVec 13, s.cfg.configured = true → exec (.readfb k) s = .next t →
      ∃ u, exec (.fbRead (k.zeroExtend 24)) s = .next u ∧ u.alone.fb = t.fb ∧ u.alone.code = t.status.code ∧
        (u.alone.code = 0#4 → u.alone.data = some t.status.rdata))
end

