-- ==== Sys2Proof/Laws/Encoding.lean ====
section
/-! SUPPORT. The rows of the host and FB words as conditions on the word's number, which omega can decide. -/

namespace Sys2Proof

theorem toNat_append_add {n m : Nat} (x : BitVec n) (y : BitVec m) :
    (x ++ y).toNat = x.toNat * 2 ^ m + y.toNat := by
  rw [BitVec.toNat_append, ← Nat.shiftLeft_add_eq_or_of_lt y.isLt, Nat.shiftLeft_eq]

theorem getLsbD_eq_div {n : Nat} (w : BitVec n) (i : Nat) : w.getLsbD i = decide (w.toNat / 2 ^ i % 2 = 1) := by
  rw [BitVec.getLsbD, Nat.testBit_eq_decide_div_mod_eq]

theorem toNat_extractLsb'_div {n : Nat} (w : BitVec n) (s l : Nat) :
    (w.extractLsb' s l).toNat = w.toNat / 2 ^ s % 2 ^ l := by
  simp [BitVec.extractLsb', Nat.shiftRight_eq_div_pow]

theorem and_high_toNat (w : Word) (n : Nat) (hn : n ≤ 32) :
    (w &&& (BitVec.allOnes 32 <<< n)).toNat = w.toNat / 2 ^ n * 2 ^ n := by
  have e : w &&& (BitVec.allOnes 32 <<< n) = (w >>> n) <<< n := by
    apply BitVec.eq_of_getLsbD_eq
    intro i hi
    simp only [BitVec.getLsbD_and, BitVec.getLsbD_shiftLeft, BitVec.getLsbD_ushiftRight, BitVec.getLsbD_allOnes]
    by_cases h : i < n
    · simp [h]
    · have : n + (i - n) = i := by omega
      simp [h, hi, this]
      intro _; omega
  rw [e, BitVec.toNat_shiftLeft, BitVec.toNat_ushiftRight, Nat.shiftRight_eq_div_pow, Nat.shiftLeft_eq]
  apply Nat.mod_eq_of_lt
  have h1 : w.toNat / 2 ^ n * 2 ^ n ≤ w.toNat := Nat.div_mul_le_self _ _
  have h2 := w.isLt
  omega

/-- A row whose fixed bits are 31:n is hit when the word's quotient by 2^n is the pattern's. -/
theorem rowHit_high (w p : Word) (n : Nat) (hn : n ≤ 32) (hp : p.toNat / 2 ^ n * 2 ^ n = p.toNat) :
    rowHit w (BitVec.allOnes 32 <<< n) p = decide (w.toNat / 2 ^ n = p.toNat / 2 ^ n) := by
  unfold rowHit
  rw [Bool.eq_iff_iff, beq_iff_eq, decide_eq_true_iff, ← BitVec.toNat_inj, and_high_toNat w n hn]
  constructor
  · intro h
    rw [← h, Nat.mul_div_cancel _ (Nat.two_pow_pos n)]
  · intro h
    rw [h, hp]

theorem rowHit_create (w : Word) : rowHit w 0xFFFF0000#32 0x10000000#32 = decide (w.toNat / 65536 = 0x1000) :=
  rowHit_high w 0x10000000#32 16 (by decide) (by decide)

theorem rowHit_setpix (w : Word) : rowHit w 0xFFFE0000#32 0x20000000#32 = decide (w.toNat / 131072 = 0x1000) :=
  rowHit_high w 0x20000000#32 17 (by decide) (by decide)

theorem rowHit_flush (w : Word) : rowHit w 0xFFFFFFFE#32 0x30000000#32 = decide (w.toNat / 2 = 0x18000000) :=
  rowHit_high w 0x30000000#32 1 (by decide) (by decide)

theorem rowHit_exact (w p : Word) : rowHit w 0xFFFFFFFF#32 p = decide (w.toNat = p.toNat) := by
  have := rowHit_high w p 0 (by decide) (by simp)
  simpa using this

theorem rowHit_readfb (w : Word) : rowHit w 0xFFFFE000#32 0x60000000#32 = decide (w.toNat / 8192 = 0x30000) :=
  rowHit_high w 0x60000000#32 13 (by decide) (by decide)

theorem rowHit_fbCreate (w : Word) : rowHit w 0xFF000000#32 0x00000000#32 = decide (w.toNat / 16777216 = 0) :=
  rowHit_high w 0x00000000#32 24 (by decide) (by decide)

theorem rowHit_fbSetBit (w : Word) : rowHit w 0xFE000000#32 0x40000000#32 = decide (w.toNat / 33554432 = 0x20) :=
  rowHit_high w 0x40000000#32 25 (by decide) (by decide)

theorem rowHit_fbRead (w : Word) : rowHit w 0xFF000000#32 0x80000000#32 = decide (w.toNat / 16777216 = 0x80) :=
  rowHit_high w 0x80000000#32 24 (by decide) (by decide)

/-- The host decoder by the word's number. -/
theorem decodeHost_eq (w : Word) : decodeHost w =
    if w.toNat / 65536 = 0x1000 then .create (w.extractLsb' 8 8) (w.extractLsb' 0 8)
    else if w.toNat / 131072 = 0x1000 then .setpix (w.extractLsb' 8 8) (w.extractLsb' 0 8) (w.getLsbD 16)
    else if w.toNat / 2 = 0x18000000 then (if w.getLsbD 0 then .flushPartial else .flushFull)
    else if w.toNat = 0x40000000 then .pwron
    else if w.toNat = 0x50000000 then .pwroff
    else if w.toNat / 8192 = 0x30000 then .readfb (w.extractLsb' 0 13)
    else .illegal w := by
  simp only [decodeHost, rowHit_create, rowHit_setpix, rowHit_flush, rowHit_exact, rowHit_readfb, decide_eq_true_eq,
    BitVec.toNat_ofNat, Nat.reducePow, Nat.reduceMod]

/-- The FB decoder by the word's number. -/
theorem decodeFb_eq (w : Word) : decodeFb w =
    if w.toNat / 16777216 = 0 then .fbCreate (w.extractLsb' 0 24)
    else if w.toNat / 33554432 = 0x20 then .fbSetBit (w.extractLsb' 0 24) (w.getLsbD 24)
    else if w.toNat / 16777216 = 0x80 then .fbRead (w.extractLsb' 0 24)
    else .fbIllegal w := by
  simp only [decodeFb, rowHit_fbCreate, rowHit_fbSetBit, rowHit_fbRead, decide_eq_true_eq]

/-- A host word is legal when its number lies in one of the six rows. -/
theorem hostWordLegal_iff (w : Word) : hostWordLegal w = true ↔
    w.toNat / 65536 = 0x1000 ∨ w.toNat / 131072 = 0x1000 ∨ w.toNat / 2 = 0x18000000 ∨ w.toNat = 0x40000000 ∨
    w.toNat = 0x50000000 ∨ w.toNat / 8192 = 0x30000 := by
  have hw := w.isLt
  unfold hostWordLegal
  have e : ∀ (s l : Nat), w.extractLsb' s l = 0 ↔ w.toNat / 2 ^ s % 2 ^ l = 0 := by
    intro s l
    rw [← BitVec.toNat_inj, toNat_extractLsb'_div]; simp
  simp only [e, toNat_extractLsb'_div, Nat.reducePow]
  have hq : w.toNat / 268435456 % 16 < 16 := Nat.mod_lt _ (by omega)
  generalize hx : w.toNat / 268435456 % 16 = q at *
  interval_cases q <;> simp only [decide_eq_true_eq, Bool.false_eq_true, false_iff] <;> omega

/-- An FB word is legal when its number lies in one of the three rows. -/
theorem fbWordLegal_iff (w : Word) : fbWordLegal w = true ↔
    w.toNat / 16777216 = 0 ∨ w.toNat / 33554432 = 0x20 ∨ w.toNat / 16777216 = 0x80 := by
  have hw := w.isLt
  unfold fbWordLegal
  have e : ∀ (s l : Nat), w.extractLsb' s l = 0 ↔ w.toNat / 2 ^ s % 2 ^ l = 0 := by
    intro s l
    rw [← BitVec.toNat_inj, toNat_extractLsb'_div]; simp
  simp only [e, toNat_extractLsb'_div, Nat.reducePow]
  have hq : w.toNat / 1073741824 % 4 < 4 := Nat.mod_lt _ (by omega)
  generalize hx : w.toNat / 1073741824 % 4 = q at *
  interval_cases q <;> simp only [Bool.and_eq_true, decide_eq_true_eq, Bool.false_eq_true, false_iff, and_false, and_true] <;>
    omega

/-! ### The numbers of the encoded words -/

theorem toNat_encode_create (w h : BitVec 8) :
    (0x1000#16 ++ w ++ h).toNat = 0x10000000 + w.toNat * 256 + h.toNat := by
  simp only [toNat_append_add, BitVec.toNat_ofNat]; omega

theorem toNat_encode_setpix (x y : BitVec 8) (on : Bool) :
    (0x1000#15 ++ BitVec.ofBool on ++ x ++ y).toNat = 0x20000000 + on.toNat * 65536 + x.toNat * 256 + y.toNat := by
  simp only [toNat_append_add, BitVec.toNat_ofNat, BitVec.toNat_ofBool]; omega

theorem toNat_encode_readfb (k : BitVec 13) : (0x30000#19 ++ k).toNat = 0x60000000 + k.toNat := by
  simp only [toNat_append_add, BitVec.toNat_ofNat]; omega

theorem toNat_encode_fbCreate (c : BitVec 24) : (0x00#8 ++ c).toNat = c.toNat := by
  simp only [toNat_append_add, BitVec.toNat_ofNat]; omega

theorem toNat_encode_fbSetBit (i : BitVec 24) (on : Bool) :
    (0x20#7 ++ BitVec.ofBool on ++ i).toNat = 0x40000000 + on.toNat * 16777216 + i.toNat := by
  simp only [toNat_append_add, BitVec.toNat_ofNat, BitVec.toNat_ofBool]; omega

theorem toNat_encode_fbRead (k : BitVec 24) : (0x80#8 ++ k).toNat = 0x80000000 + k.toNat := by
  simp only [toNat_append_add, BitVec.toNat_ofNat]; omega

end Sys2Proof
end

