-- ==== Sys2Proof/Laws/Memory.lean ====
section
/-! SUPPORT. The FB storage: reading after writing and clearing, the canonical form, and the bit operations. -/

namespace Sys2Proof.Machine

@[simp] theorem Memory.read_nil (k : Nat) : Memory.read [] k = none := rfl

theorem Memory.read_cons (a : Nat) (v : Byte) (m : Memory) (k : Nat) :
    Memory.read ((a, v) :: m) k = if a = k then some v else Memory.read m k := rfl

/-- A read after a write gives the value written, and every other byte is as before. -/
theorem Memory.read_write (m : Memory) (k : Nat) (v : Byte) (j : Nat) :
    (m.write k v).read j = if j = k then some v else m.read j := by
  induction m with
  | nil => simp only [Memory.write, Memory.read_cons, Memory.read_nil, eq_comm]
  | cons c m ih =>
    obtain ⟨a, u⟩ := c
    simp only [Memory.write]
    split
    · simp only [Memory.read_cons, eq_comm]
    · split
      · subst_vars
        simp only [Memory.read_cons]
        grind
      · simp only [Memory.read_cons, ih]
        grind

theorem Memory.read_range_zero (n : Nat) (m : Memory) (s j : Nat) :
    Memory.read ((List.range' s n).map (fun k => (k, 0x00#8)) ++ m) j =
      if s ≤ j ∧ j < s + n then some 0x00#8 else m.read j := by
  induction n generalizing s with
  | zero => simp
  | succ n ih =>
    simp only [List.range'_succ, List.map_cons, List.cons_append, Memory.read_cons, ih]
    grind

theorem Memory.read_filter (m : Memory) (n j : Nat) (h : n ≤ j) :
    Memory.read (m.filter (fun c => decide (n ≤ c.1))) j = m.read j := by
  induction m with
  | nil => rfl
  | cons c m ih =>
    obtain ⟨a, u⟩ := c
    by_cases hn : n ≤ a
    · simp [hn, Memory.read_cons, ih]
    · have : a ≠ j := by omega
      simp [hn, Memory.read_cons, ih, this]

/-- After clearing n bytes, those read 0 and every other byte is as before. -/
theorem Memory.read_clear (m : Memory) (n j : Nat) :
    (m.clear n).read j = if j < n then some 0x00#8 else m.read j := by
  simp only [Memory.clear, List.range_eq_range', Memory.read_range_zero]
  by_cases h : j < n
  · simp [h]
  · simp [h, Memory.read_filter m n j (by omega)]

/-! ### The canonical form -/

theorem Memory.wf_iff (m : Memory) :
    m.wf = true ↔ m.Pairwise (fun a b => a.1 < b.1) ∧ ∀ c ∈ m, c.1 < Config.fbMaxBytes := by
  simp [Memory.wf]

theorem Memory.fst_write (m : Memory) (k : Nat) (v : Byte) (c : Host.Cell) (h : c ∈ m.write k v) :
    c.1 = k ∨ ∃ d ∈ m, d.1 = c.1 := by
  induction m with
  | nil => simp_all [Memory.write]
  | cons d m ih =>
    obtain ⟨a, u⟩ := d
    simp only [Memory.write] at h
    split at h
    · grind
    · split at h
      · grind
      · grind

/-- A write keeps the canonical form. -/
theorem Memory.wf_write (m : Memory) (k : Nat) (v : Byte) (h : m.wf = true) (hk : k < Config.fbMaxBytes) :
    (m.write k v).wf = true := by
  rw [Memory.wf_iff] at *
  refine ⟨?_, ?_⟩
  · obtain ⟨h, -⟩ := h
    induction m with
    | nil => simp [Memory.write]
    | cons d m ih =>
      obtain ⟨a, u⟩ := d
      rw [List.pairwise_cons] at h
      simp only [Memory.write]
      split
      · rename_i hka
        simp only [List.pairwise_cons]
        grind
      · split
        · subst_vars
          simp only [List.pairwise_cons]
          exact ⟨h.1, h.2⟩
        · simp only [List.pairwise_cons]
          refine ⟨?_, ih h.2⟩
          intro c hc
          rcases Memory.fst_write m k v c hc with e | ⟨d, hd, e⟩
          · simp only [e]; omega
          · have := h.1 d hd
            simp only [← e]; exact this
  · intro c hc
    rcases Memory.fst_write m k v c hc with e | ⟨d, hd, e⟩
    · omega
    · have := h.2 d hd
      omega

/-- Clearing keeps the canonical form. -/
theorem Memory.wf_clear (m : Memory) (n : Nat) (h : m.wf = true) (hn : n ≤ Config.fbMaxBytes) :
    (m.clear n).wf = true := by
  rw [Memory.wf_iff] at *
  obtain ⟨hp, hb⟩ := h
  simp only [Memory.clear]
  refine ⟨?_, ?_⟩
  · rw [List.pairwise_append]
    refine ⟨?_, hp.filter _, ?_⟩
    · rw [List.pairwise_map]
      exact List.pairwise_lt_range
    · intro a ha b hb'
      simp only [List.mem_map, List.mem_range, List.mem_filter, decide_eq_true_eq] at ha hb'
      obtain ⟨k, hk, rfl⟩ := ha
      simp only
      omega
  · intro c hc
    simp only [List.mem_append, List.mem_map, List.mem_range, List.mem_filter] at hc
    rcases hc with ⟨k, hk, rfl⟩ | ⟨hc, -⟩
    · simp only
      omega
    · exact hb c hc

theorem reset_memory_wf : State.reset.fb.bytes.wf = true := by decide

/-- A byte that is listed lies in the storage. -/
theorem Memory.read_bound (m : Memory) (k : Nat) (v : Byte) (h : m.wf = true) (hr : m.read k = some v) :
    k < Config.fbMaxBytes := by
  rw [Memory.wf_iff] at h
  obtain ⟨-, h⟩ := h
  induction m with
  | nil => simp at hr
  | cons c m ih =>
    obtain ⟨a, u⟩ := c
    rw [Memory.read_cons] at hr
    split at hr
    · have := h (a, u) (by simp)
      simp_all
    · exact ih hr (fun c hc => h c (by simp [hc]))

/-- In canonical form, memories that read alike are equal. -/
theorem Memory.ext_read (m n : Memory) (hm : m.wf = true) (hn : n.wf = true) (h : ∀ k, m.read k = n.read k) :
    m = n := by
  rw [Memory.wf_iff] at hm hn
  obtain ⟨hm, -⟩ := hm
  obtain ⟨hn, -⟩ := hn
  have low : ∀ (l : Memory) (k : Nat), (∀ c ∈ l, k < c.1) → l.read k = none := by
    intro l k hl
    induction l with
    | nil => rfl
    | cons c l ih =>
      obtain ⟨a, u⟩ := c
      have h1 := hl (a, u) (by simp)
      rw [Memory.read_cons, if_neg (by simp only at h1; omega)]
      exact ih (fun c hc => hl c (by simp [hc]))
  induction m generalizing n with
  | nil =>
    cases n with
    | nil => rfl
    | cons d n =>
      have := h d.1
      simp [Memory.read] at this
  | cons c m ih =>
    cases n with
    | nil =>
      have := h c.1
      simp [Memory.read] at this
    | cons d n =>
      obtain ⟨a, u⟩ := c
      obtain ⟨b, v⟩ := d
      rw [List.pairwise_cons] at hm hn
      have lowm := low m a hm.1
      have lown := low n b hn.1
      have hab : a = b := by
        rcases Nat.lt_trichotomy a b with hlt | heq | hlt
        · have ha := h a
          rw [Memory.read_cons, if_pos rfl, Memory.read_cons, if_neg (by omega),
            low n a (fun c hc => Nat.lt_trans hlt (hn.1 c hc))] at ha
          simp at ha
        · exact heq
        · have hb := h b
          rw [Memory.read_cons, if_neg (by omega), Memory.read_cons, if_pos rfl,
            low m b (fun c hc => Nat.lt_trans hlt (hm.1 c hc))] at hb
          simp at hb
      subst hab
      have huv := h a
      simp only [Memory.read_cons, if_pos] at huv
      have huv : u = v := by simpa using huv
      subst huv
      refine congrArg _ (ih n ?_ hm.2 hn.2)
      intro k
      by_cases hk : a = k
      · subst hk; rw [lowm, lown]
      · have := h k
        rwa [Memory.read_cons, Memory.read_cons, if_neg hk, if_neg hk] at this

/-! ### Reading and writing through the primitives -/

theorem memRead_ok (m : Memory) (k : Nat) (v : Byte) (hk : k < Config.fbMaxBytes) (h : m.read k = some v) :
    memRead m k = .ok v := by
  simp [memRead, hk, h]

/-- All that `memRead` can answer. -/
theorem memRead_cases (m : Memory) (k : Nat) :
    (∃ v, m.read k = some v ∧ k < Config.fbMaxBytes ∧ memRead m k = .ok v) ∨
    (m.read k = none ∧ k < Config.fbMaxBytes ∧ memRead m k = .error .fbByteUnwritten) ∨
    (¬ k < Config.fbMaxBytes ∧ memRead m k = .error .fbByteAbsent) := by
  unfold memRead
  by_cases hk : k < Config.fbMaxBytes
  · cases h : m.read k <;> simp [hk]
  · simp [hk]

/-- All that `fbWriteBit` can answer. -/
theorem fbWriteBit_ok (m : Memory) (i : Nat) (b : Bool) (m' : Memory) (h : fbWriteBit m i b = .ok m') :
    ∃ old, m.read (i / 8) = some old ∧ i / 8 < Config.fbMaxBytes ∧ m' = m.write (i / 8) (setBitIn old i b) := by
  unfold fbWriteBit byteOfBit at h
  rcases memRead_cases m (i / 8) with ⟨v, hv, hk, e⟩ | ⟨-, -, e⟩ | ⟨-, e⟩ <;> rw [e] at h
  · exact ⟨v, hv, hk, by simpa using h.symm⟩
  · simp at h
  · simp at h

theorem fbWriteBit_of_read (m : Memory) (i : Nat) (b : Bool) (old : Byte) (hk : i / 8 < Config.fbMaxBytes)
    (h : m.read (i / 8) = some old) : fbWriteBit m i b = .ok (m.write (i / 8) (setBitIn old i b)) := by
  simp [fbWriteBit, byteOfBit, memRead_ok m _ old hk h]

/-- The addressed bit takes the value and the other bits of the byte stay (20_memory.md R52). -/
theorem setBitIn_getLsbD (old : Byte) (i : Nat) (b : Bool) (j : Nat) (hj : j < 8) :
    (setBitIn old i b).getLsbD j = if j = i % 8 then b else old.getLsbD j := by
  have hi : i % 8 < 8 := Nat.mod_lt _ (by omega)
  unfold setBitIn bitInByte
  generalize i % 8 = p at *
  cases b <;> interval_cases p <;> interval_cases j <;> simp

/-- `memReads` over indices that all have values. -/
theorem memReads_ok (m : Memory) (ks : List Nat) (hm : m.wf = true) (h : ∀ k ∈ ks, (m.read k).isSome = true) :
    ∃ vs, memReads m ks = .ok vs ∧ vs.length = ks.length ∧ ∀ j, (hj : j < ks.length) → vs[j]? = m.read ks[j] := by
  induction ks with
  | nil => exact ⟨[], rfl, rfl, by simp⟩
  | cons k ks ih =>
    obtain ⟨vs, e, hl, hv⟩ := ih (fun k hk => h k (by simp [hk]))
    obtain ⟨v, hkv⟩ := Option.isSome_iff_exists.mp (h k (by simp))
    refine ⟨v :: vs, ?_, by simp [hl], ?_⟩
    · simp [memReads, memRead_ok m k v (Memory.read_bound m k v hm hkv) hkv, e]
    · intro j hj
      cases j with
      | zero => simp [hkv]
      | succ j => simpa using hv j (by simpa using hj)

/-! ### The FB operations -/

/-- All that FB_CREATE can do (40_framebuffer.md R100). -/
theorem Fb.create_cases (fb : Fb) (c : Nat) :
    ((c % 8 ≠ 0 ∨ c > Config.fbMaxBits) ∧ fb.create c = (.invalidSize, fb)) ∨
    (c % 8 = 0 ∧ c ≤ Config.fbMaxBits ∧
      fb.create c = (.ok, { cap := BitVec.ofNat 16 c, bytes := fb.bytes.clear (c / 8) })) := by
  unfold Fb.create
  by_cases h : c % 8 ≠ 0 ∨ c > Config.fbMaxBits
  · exact .inl ⟨h, if_pos h⟩
  · refine .inr ⟨by omega, by omega, if_neg h⟩

/-- The FB that FB_CREATE makes is sound. -/
theorem FbSound.create (fb : Fb) (c : Nat) (h : FbSound fb) (h8 : c % 8 = 0) (hc : c ≤ Config.fbMaxBits) :
    FbSound { cap := BitVec.ofNat 16 c, bytes := fb.bytes.clear (c / 8) } := by
  have hmax : Config.fbMaxBits = 65024 := rfl
  have hmb : Config.fbMaxBytes = 8128 := rfl
  have e : (BitVec.ofNat 16 c).toNat = c := by
    rw [BitVec.toNat_ofNat]; exact Nat.mod_eq_of_lt (by omega)
  refine ⟨by simp only [e]; exact h8, by simp only [e]; exact hc, Memory.wf_clear _ _ h.canonical (by omega), ?_⟩
  intro k hk
  simp only [e] at hk
  simp [Memory.read_clear, hk]

/-- All that FB_SET_BIT can do on a sound FB (40_framebuffer.md R101). -/
theorem Fb.setBit_sound (fb : Fb) (i : Nat) (on : Bool) (h : FbSound fb) :
    (fb.cap.toNat ≤ i ∧ fb.setBit i on = .ok (.invalidIndex, fb)) ∨
    (i < fb.cap.toNat ∧ ∃ old, fb.bytes.read (i / 8) = some old ∧ i / 8 < Config.fbMaxBytes ∧
      fb.setBit i on = .ok (.ok, { fb with bytes := fb.bytes.write (i / 8) (setBitIn old i on) })) := by
  by_cases hi : i ≥ fb.cap.toNat
  · exact .inl ⟨hi, by simp [Fb.setBit, hi]⟩
  · have h8 := h.whole_bytes
    obtain ⟨old, ho⟩ := Option.isSome_iff_exists.mp (h.written (i / 8) (by omega))
    have hk := Memory.read_bound _ _ _ h.canonical ho
    exact .inr ⟨by omega, old, ho, hk, by simp [Fb.setBit, hi, fbWriteBit_of_read _ _ _ _ hk ho]⟩

/-- Writing a byte of the buffer keeps the FB sound. -/
theorem FbSound.write (fb : Fb) (k : Nat) (v : Byte) (h : FbSound fb) (hk : k < Config.fbMaxBytes) :
    FbSound { fb with bytes := fb.bytes.write k v } := by
  refine ⟨h.whole_bytes, h.within, Memory.wf_write _ _ _ h.canonical hk, ?_⟩
  intro j hj
  rw [Memory.read_write]
  by_cases e : j = k
  · simp [e]
  · simpa [e] using h.written j hj

/-- All that FB_READ can do on a sound FB (40_framebuffer.md R102). -/
theorem Fb.readByte_sound (fb : Fb) (k : Nat) (h : FbSound fb) :
    (fb.cap.toNat / 8 ≤ k ∧ fb.readByte k = .ok none) ∨
    (k < fb.cap.toNat / 8 ∧ ∃ v, fb.bytes.read k = some v ∧ fb.readByte k = .ok (some v)) := by
  by_cases hk : k ≥ fb.cap.toNat / 8
  · exact .inl ⟨hk, by simp [Fb.readByte, hk]⟩
  · obtain ⟨v, hv⟩ := Option.isSome_iff_exists.mp (h.written k (by omega))
    exact .inr ⟨by omega, v, hv, by
      simp [Fb.readByte, hk, memRead_ok _ _ _ (Memory.read_bound _ _ _ h.canonical hv) hv]⟩

/-- asBytes of a sound FB (40_framebuffer.md R103). -/
theorem Fb.asBytes_sound (fb : Fb) (n : Nat) (h : FbSound fb) :
    ∃ bs, fb.asBytes n = .ok bs ∧ bs.length = min n (fb.cap.toNat / 8) ∧
      ∀ k, k < min n (fb.cap.toNat / 8) → bs[k]? = fb.bytes.read k := by
  obtain ⟨bs, e, hl, hv⟩ := memReads_ok fb.bytes (List.range (min n (fb.cap.toNat / 8))) h.canonical
    (fun k hk => h.written k (by simp at hk; omega))
  refine ⟨bs, e, by simpa using hl, fun k hk => ?_⟩
  have := hv k (by simpa using hk)
  simpa using this

end Sys2Proof.Machine
end

