-- ==== Sys2Proof/Laws/State.lean ====
section
/-! SUPPORT. One lemma per field per named update of State, each true by rfl, so that no proof unfolds an update. -/

namespace Sys2Proof.Machine

@[simp] theorem complete_status (c : ResultCode) (s : State) : (complete c s).status = s.status.completed c := rfl
@[simp] theorem complete_cancel (c : ResultCode) (s : State) : (complete c s).cancel = s.cancel := rfl
@[simp] theorem complete_cfg (c : ResultCode) (s : State) : (complete c s).cfg = s.cfg := rfl
@[simp] theorem complete_fb (c : ResultCode) (s : State) : (complete c s).fb = s.fb := rfl
@[simp] theorem complete_seq (c : ResultCode) (s : State) : (complete c s).seq = { s.seq with phase := .idle, acts := [], step := 0#5, op := 0#3 } := rfl
@[simp] theorem complete_rom (c : ResultCode) (s : State) : (complete c s).rom = s.rom := rfl
@[simp] theorem complete_xmax (c : ResultCode) (s : State) : (complete c s).xmax = s.xmax := rfl
@[simp] theorem complete_port (c : ResultCode) (s : State) : (complete c s).port = s.port := rfl
@[simp] theorem complete_trace (c : ResultCode) (s : State) : (complete c s).trace = s.trace := rfl
@[simp] theorem complete_alone (c : ResultCode) (s : State) : (complete c s).alone = s.alone := rfl
@[simp] theorem complete_hostData (c : ResultCode) (s : State) : (complete c s).hostData = s.hostData := rfl
@[simp] theorem complete_moves (c : ResultCode) (s : State) : (complete c s).moves = s.moves := rfl

@[simp] theorem launch_status (op : BitVec 3) (acts : List Action) (s : State) : (launch op acts s).status = s.status := rfl
@[simp] theorem launch_cancel (op : BitVec 3) (acts : List Action) (s : State) : (launch op acts s).cancel = s.cancel := rfl
@[simp] theorem launch_cfg (op : BitVec 3) (acts : List Action) (s : State) : (launch op acts s).cfg = s.cfg := rfl
@[simp] theorem launch_fb (op : BitVec 3) (acts : List Action) (s : State) : (launch op acts s).fb = s.fb := rfl
@[simp] theorem launch_seq (op : BitVec 3) (acts : List Action) (s : State) : (launch op acts s).seq = { s.seq with op := op, acts := acts, step := 0#5, phase := .start } := rfl
@[simp] theorem launch_rom (op : BitVec 3) (acts : List Action) (s : State) : (launch op acts s).rom = s.rom := rfl
@[simp] theorem launch_xmax (op : BitVec 3) (acts : List Action) (s : State) : (launch op acts s).xmax = s.xmax := rfl
@[simp] theorem launch_port (op : BitVec 3) (acts : List Action) (s : State) : (launch op acts s).port = s.port := rfl
@[simp] theorem launch_trace (op : BitVec 3) (acts : List Action) (s : State) : (launch op acts s).trace = s.trace := rfl
@[simp] theorem launch_alone (op : BitVec 3) (acts : List Action) (s : State) : (launch op acts s).alone = s.alone := rfl
@[simp] theorem launch_hostData (op : BitVec 3) (acts : List Action) (s : State) : (launch op acts s).hostData = s.hostData := rfl
@[simp] theorem launch_moves (op : BitVec 3) (acts : List Action) (s : State) : (launch op acts s).moves = s.moves := rfl

@[simp] theorem setPhase_status (p : Phase) (s : State) : (setPhase p s).status = s.status := rfl
@[simp] theorem setPhase_cancel (p : Phase) (s : State) : (setPhase p s).cancel = s.cancel := rfl
@[simp] theorem setPhase_cfg (p : Phase) (s : State) : (setPhase p s).cfg = s.cfg := rfl
@[simp] theorem setPhase_fb (p : Phase) (s : State) : (setPhase p s).fb = s.fb := rfl
@[simp] theorem setPhase_seq (p : Phase) (s : State) : (setPhase p s).seq = { s.seq with phase := p } := rfl
@[simp] theorem setPhase_rom (p : Phase) (s : State) : (setPhase p s).rom = s.rom := rfl
@[simp] theorem setPhase_xmax (p : Phase) (s : State) : (setPhase p s).xmax = s.xmax := rfl
@[simp] theorem setPhase_port (p : Phase) (s : State) : (setPhase p s).port = s.port := rfl
@[simp] theorem setPhase_trace (p : Phase) (s : State) : (setPhase p s).trace = s.trace := rfl
@[simp] theorem setPhase_alone (p : Phase) (s : State) : (setPhase p s).alone = s.alone := rfl
@[simp] theorem setPhase_hostData (p : Phase) (s : State) : (setPhase p s).hostData = s.hostData := rfl
@[simp] theorem setPhase_moves (p : Phase) (s : State) : (setPhase p s).moves = s.moves := rfl

@[simp] theorem sendUnit_status (u : PanelUnit) (s : State) : (sendUnit u s).status = s.status := rfl
@[simp] theorem sendUnit_cancel (u : PanelUnit) (s : State) : (sendUnit u s).cancel = s.cancel := rfl
@[simp] theorem sendUnit_cfg (u : PanelUnit) (s : State) : (sendUnit u s).cfg = s.cfg := rfl
@[simp] theorem sendUnit_fb (u : PanelUnit) (s : State) : (sendUnit u s).fb = s.fb := rfl
@[simp] theorem sendUnit_seq (u : PanelUnit) (s : State) : (sendUnit u s).seq = { s.seq with phase := .resp } := rfl
@[simp] theorem sendUnit_rom (u : PanelUnit) (s : State) : (sendUnit u s).rom = s.rom := rfl
@[simp] theorem sendUnit_xmax (u : PanelUnit) (s : State) : (sendUnit u s).xmax = s.xmax := rfl
@[simp] theorem sendUnit_port (u : PanelUnit) (s : State) : (sendUnit u s).port = { s.port with req := true, reqCmd := u.cmd, reqData := u.data } := rfl
@[simp] theorem sendUnit_trace (u : PanelUnit) (s : State) : (sendUnit u s).trace = s.trace ++ [.sent u.cmd u.data] := rfl
@[simp] theorem sendUnit_alone (u : PanelUnit) (s : State) : (sendUnit u s).alone = s.alone := rfl
@[simp] theorem sendUnit_hostData (u : PanelUnit) (s : State) : (sendUnit u s).hostData = s.hostData := rfl
@[simp] theorem sendUnit_moves (u : PanelUnit) (s : State) : (sendUnit u s).moves = s.moves := rfl

@[simp] theorem answered_status (e : PanelEvent) (s : State) : (answered e s).status = s.status := rfl
@[simp] theorem answered_cancel (e : PanelEvent) (s : State) : (answered e s).cancel = s.cancel := rfl
@[simp] theorem answered_cfg (e : PanelEvent) (s : State) : (answered e s).cfg = s.cfg := rfl
@[simp] theorem answered_fb (e : PanelEvent) (s : State) : (answered e s).fb = s.fb := rfl
@[simp] theorem answered_seq (e : PanelEvent) (s : State) : (answered e s).seq = s.seq := rfl
@[simp] theorem answered_rom (e : PanelEvent) (s : State) : (answered e s).rom = s.rom := rfl
@[simp] theorem answered_xmax (e : PanelEvent) (s : State) : (answered e s).xmax = s.xmax := rfl
@[simp] theorem answered_port (e : PanelEvent) (s : State) : (answered e s).port = { s.port with req := false } := rfl
@[simp] theorem answered_trace (e : PanelEvent) (s : State) : (answered e s).trace = s.trace ++ [e] := rfl
@[simp] theorem answered_alone (e : PanelEvent) (s : State) : (answered e s).alone = s.alone := rfl
@[simp] theorem answered_hostData (e : PanelEvent) (s : State) : (answered e s).hostData = s.hostData := rfl
@[simp] theorem answered_moves (e : PanelEvent) (s : State) : (answered e s).moves = s.moves := rfl

@[simp] theorem respond_status (c : ResultCode) (d : Option Byte) (fb : Fb) (s : State) : (respond c d fb s).status = s.status := rfl
@[simp] theorem respond_cancel (c : ResultCode) (d : Option Byte) (fb : Fb) (s : State) : (respond c d fb s).cancel = s.cancel := rfl
@[simp] theorem respond_cfg (c : ResultCode) (d : Option Byte) (fb : Fb) (s : State) : (respond c d fb s).cfg = s.cfg := rfl
@[simp] theorem respond_fb (c : ResultCode) (d : Option Byte) (fb : Fb) (s : State) : (respond c d fb s).fb = s.fb := rfl
@[simp] theorem respond_seq (c : ResultCode) (d : Option Byte) (fb : Fb) (s : State) : (respond c d fb s).seq = s.seq := rfl
@[simp] theorem respond_rom (c : ResultCode) (d : Option Byte) (fb : Fb) (s : State) : (respond c d fb s).rom = s.rom := rfl
@[simp] theorem respond_xmax (c : ResultCode) (d : Option Byte) (fb : Fb) (s : State) : (respond c d fb s).xmax = s.xmax := rfl
@[simp] theorem respond_port (c : ResultCode) (d : Option Byte) (fb : Fb) (s : State) : (respond c d fb s).port = s.port := rfl
@[simp] theorem respond_trace (c : ResultCode) (d : Option Byte) (fb : Fb) (s : State) : (respond c d fb s).trace = s.trace := rfl
@[simp] theorem respond_alone (c : ResultCode) (d : Option Byte) (fb : Fb) (s : State) : (respond c d fb s).alone = { fb := fb, code := c.bits, data := d } := rfl
@[simp] theorem respond_hostData (c : ResultCode) (d : Option Byte) (fb : Fb) (s : State) : (respond c d fb s).hostData = s.hostData := rfl
@[simp] theorem respond_moves (c : ResultCode) (d : Option Byte) (fb : Fb) (s : State) : (respond c d fb s).moves = s.moves := rfl

@[simp] theorem resetBlock_status (s : State) : (resetBlock s).status = State.reset.status := rfl
@[simp] theorem resetBlock_cancel (s : State) : (resetBlock s).cancel = false := rfl
@[simp] theorem resetBlock_cfg (s : State) : (resetBlock s).cfg = State.reset.cfg := rfl
@[simp] theorem resetBlock_fb (s : State) : (resetBlock s).fb = State.reset.fb := rfl
@[simp] theorem resetBlock_seq (s : State) : (resetBlock s).seq = State.reset.seq := rfl
@[simp] theorem resetBlock_rom (s : State) : (resetBlock s).rom = s.rom := rfl
@[simp] theorem resetBlock_xmax (s : State) : (resetBlock s).xmax = s.xmax := rfl
@[simp] theorem resetBlock_port (s : State) : (resetBlock s).port = { State.reset.port with busy := s.port.busy, resp := s.port.resp } := rfl
@[simp] theorem resetBlock_trace (s : State) : (resetBlock s).trace = [] := rfl
@[simp] theorem resetBlock_alone (s : State) : (resetBlock s).alone = s.alone := rfl
@[simp] theorem resetBlock_hostData (s : State) : (resetBlock s).hostData = s.hostData := rfl
@[simp] theorem resetBlock_moves (s : State) : (resetBlock s).moves = s.moves := rfl

@[simp] theorem Status.accepted_ready (t : Status) : (t.accepted).ready = false := rfl
@[simp] theorem Status.accepted_configured (t : Status) : (t.accepted).configured = t.configured := rfl
@[simp] theorem Status.accepted_wc (t : Status) : (t.accepted).wc = false := rfl
@[simp] theorem Status.accepted_cl (t : Status) : (t.accepted).cl = false := rfl
@[simp] theorem Status.accepted_code (t : Status) : (t.accepted).code = 0#4 := rfl
@[simp] theorem Status.accepted_rdata (t : Status) : (t.accepted).rdata = t.rdata := rfl

@[simp] theorem Status.lost_ready (t : Status) : (t.lost).ready = t.ready := rfl
@[simp] theorem Status.lost_configured (t : Status) : (t.lost).configured = t.configured := rfl
@[simp] theorem Status.lost_wc (t : Status) : (t.lost).wc = t.wc := rfl
@[simp] theorem Status.lost_cl (t : Status) : (t.lost).cl = true := rfl
@[simp] theorem Status.lost_code (t : Status) : (t.lost).code = t.code := rfl
@[simp] theorem Status.lost_rdata (t : Status) : (t.lost).rdata = t.rdata := rfl

@[simp] theorem Status.completed_ready (t : Status) (c : ResultCode) : (t.completed c).ready = true := rfl
@[simp] theorem Status.completed_configured (t : Status) (c : ResultCode) : (t.completed c).configured = t.configured := rfl
@[simp] theorem Status.completed_wc (t : Status) (c : ResultCode) : (t.completed c).wc = t.wc := rfl
@[simp] theorem Status.completed_cl (t : Status) (c : ResultCode) : (t.completed c).cl = t.cl := rfl
@[simp] theorem Status.completed_code (t : Status) (c : ResultCode) : (t.completed c).code = c.bits := rfl
@[simp] theorem Status.completed_rdata (t : Status) (c : ResultCode) : (t.completed c).rdata = t.rdata := rfl

@[simp] theorem Status.cutShort_ready (t : Status) : (t.cutShort).ready = t.ready := rfl
@[simp] theorem Status.cutShort_configured (t : Status) : (t.cutShort).configured = t.configured := rfl
@[simp] theorem Status.cutShort_wc (t : Status) : (t.cutShort).wc = true := rfl
@[simp] theorem Status.cutShort_cl (t : Status) : (t.cutShort).cl = t.cl := rfl
@[simp] theorem Status.cutShort_code (t : Status) : (t.cutShort).code = t.code := rfl
@[simp] theorem Status.cutShort_rdata (t : Status) : (t.cutShort).rdata = t.rdata := rfl

end Sys2Proof.Machine
end

