-- ==== Sys2Proof/Laws/Ops.lean ====
section
/-! SUPPORT. What each shared operation over State can do, said once. -/

namespace Sys2Proof.Machine

/-- An accepted command word runs its body on the cleared state (41_panel_controller.md R120). -/
theorem command_ready (body : State → Except Fault State) (s : State) (h : s.status.ready = true) :
    command body s = outcome (body { s with status := s.status.accepted }) := by
  simp [command, h]

/-- A lost command word sets CL and nothing else (41_panel_controller.md R121). -/
theorem command_busy (body : State → Except Fault State) (s : State) (h : s.status.ready = false) :
    command body s = .next { s with status := s.status.lost } := by
  simp [command, h]

/-- All that a command word can do. -/
theorem command_next (body : State → Except Fault State) (s t : State) (h : command body s = .next t) :
    (s.status.ready = true ∧ body { s with status := s.status.accepted } = .ok t) ∨
    (s.status.ready = false ∧ t = { s with status := s.status.lost }) := by
  cases hr : s.status.ready with
  | false =>
    rw [command_busy body s hr] at h
    exact .inr ⟨rfl, by simpa using h.symm⟩
  | true =>
    rw [command_ready body s hr] at h
    cases hb : body { s with status := s.status.accepted } with
    | ok u =>
      rw [hb] at h
      exact .inl ⟨rfl, by simpa [outcome] using h⟩
    | error f => rw [hb] at h; simp [outcome] at h

/-- `advance` where STEP is an index of ACTS: the next action, or the end with OK (42_command_protocol.md R154). -/
theorem advance_eq (s : State) (h : s.seq.step.toNat < 31) :
    advance s =
      if s.seq.step.toNat + 1 = s.seq.acts.length then complete .ok s
      else { s with seq := { s.seq with step := s.seq.step + 1#5, phase := .start } } := by
  have e : (s.seq.step + 1#5).toNat = s.seq.step.toNat + 1 := by
    rw [BitVec.toNat_add]
    show (s.seq.step.toNat + 1) % 32 = _
    omega
  simp only [advance, e]
  split <;> rfl

/-- All that `advance` can do. -/
theorem advance_cases (s : State) :
    (∃ n : BitVec 5, advance s = complete .ok { s with seq := { s.seq with step := n } }) ∨
    advance s = { s with seq := { s.seq with step := s.seq.step + 1#5, phase := .start } } := by
  by_cases h : (s.seq.step + 1#5).toNat = s.seq.acts.length
  · exact .inl ⟨s.seq.step + 1#5, if_pos h⟩
  · exact .inr (if_neg h)

/-- All that a poll can do (42_command_protocol.md R152). -/
theorem poll_cases (proceed : State → State) (s : State) :
    (s.port.busy = false ∧ poll proceed s = proceed s) ∨
    (s.port.busy = true ∧ s.cancel = true ∧ poll proceed s = proceed { s with status := s.status.cutShort }) ∨
    (s.port.busy = true ∧ s.cancel = false ∧ poll proceed s = s) := by
  unfold poll
  cases s.port.busy <;> cases s.cancel <;> simp

/-- All that taking an answer can do (42_command_protocol.md R154). -/
theorem takeAnswer_cases (s : State) :
    (s.port.resp = .none ∧ takeAnswer s = s) ∨
    (s.port.resp = .ok ∧ takeAnswer s = advance (answered .ok s)) ∨
    (s.port.resp = .fail ∧ takeAnswer s = complete .transportFailure (answered .fail s)) := by
  unfold takeAnswer
  cases s.port.resp <;> simp

/-- All that a unit's engine step can do (42_command_protocol.md R151 to R154). -/
theorem unitStep_cases (u : PanelUnit) (s : State) :
    (s.seq.phase = .idle ∧ unitStep u s = .next s) ∨
    (s.seq.phase = .start ∧ unitStep u s = .next (setPhase .wait s)) ∨
    (s.seq.phase = .wait ∧ unitStep u s = .next (poll (setPhase .send) s)) ∨
    (s.seq.phase = .send ∧ unitStep u s = .next (sendUnit u s)) ∨
    (s.seq.phase = .resp ∧ unitStep u s = .next (takeAnswer s)) := by
  unfold unitStep
  cases s.seq.phase <;> simp

/-- The unit that the instruction of a row sends, by the row's own rule. -/
def rowUnit : UnitRow → State → PanelUnit
  | .init01, s => unitInit01 s
  | .init0C, s => unitInit0C s
  | .init2C, s => unitInit2C s
  | .init3A, s => unitInit3A s
  | .init3B, s => unitInit3B s
  | .init11, s => unitInit11 s
  | .lut, s => unitLut s
  | .pon, s => unitPon s
  | .act, s => unitAct s
  | .ramXwin, s => unitRamXwin s
  | .ramYwin, s => unitRamYwin s
  | .ramXptr, s => unitRamXptr s
  | .ramYptr, s => unitRamYptr s
  | .update, s => unitUpdate s
  | .sync20, s => unitSync20 s
  | .syncFF, s => unitSyncFF s
  | .poff12, s => unitPoff12 s
  | .poff82, s => unitPoff82 s
  | .poff01, s => unitPoff01 s
  | .poff02, s => unitPoff02 s

/-- A row's instruction is the engine's step of the row's unit. -/
theorem exec_rowInstr (row : UnitRow) (s : State) : exec (rowInstr row) s = unitStep (rowUnit row s) s := by
  cases row <;> rfl

/-- All that a step can be: SEQ's own step, or the next move on the state without it. -/
theorem step_cases (s : State) :
    (s.moves = [] ∧ step s = sequencer s) ∨
    (∃ m rest, s.moves = m :: rest ∧ step s = perform m { s with moves := rest }) := by
  unfold step stepMove
  cases h : s.moves with
  | nil => exact .inl ⟨rfl, rfl⟩
  | cons m rest => exact .inr ⟨m, rest, rfl, rfl⟩

/-- All that SEQ's own step can do. -/
theorem sequencer_cases (s : State) :
    (s.seq.phase = .idle ∧ sequencer s = .next s) ∨
    (s.seq.phase ≠ .idle ∧ ∃ row u, currentAction s = some (.unit row u) ∧ sequencer s = exec (rowInstr row) s) ∨
    (s.seq.phase ≠ .idle ∧ currentAction s = some .xfer ∧ sequencer s = exec .writeRam s) ∨
    (s.seq.phase ≠ .idle ∧ currentAction s = some .waitOnly ∧ sequencer s = .next (waitOnlyStep s)) ∨
    (s.seq.phase ≠ .idle ∧ currentAction s = none ∧ sequencer s = .fault .noCurrentAction) := by
  unfold sequencer
  by_cases h : s.seq.phase = .idle
  · exact .inl ⟨h, if_pos h⟩
  · simp only [h, if_false, ne_eq, not_false_eq_true, true_and, false_and, false_or]
    cases hc : currentAction s with
    | none => simp
    | some a => cases a <;> simp

end Sys2Proof.Machine
end

