-- ==== Sys2Proof/Laws/PerInstr.lean ====
section
/-! SUPPORT. Per instruction: the encoded instruction lies in its own row of spec/opcode_table.json, (w AND mask) = match
on its own port (30_encoding.md R72 to R78, R80, R82, R85). -/

namespace Sys2Proof.Laws.EncodeInRow

/-- The row of an instruction in the table: its port, and the test of the row. An illegal word is in its catch-all row
when it is in no other row of its port. -/
def InRow (rom : Rom) : Instr → Encoded → Prop
  | .create _ _, .host w => rowHit w 0xFFFF0000#32 0x10000000#32 = true
  | .setpix _ _ _, .host w => rowHit w 0xFFFE0000#32 0x20000000#32 = true
  | .flushFull, .host w => rowHit w 0xFFFFFFFF#32 0x30000000#32 = true
  | .flushPartial, .host w => rowHit w 0xFFFFFFFF#32 0x30000001#32 = true
  | .pwron, .host w => rowHit w 0xFFFFFFFF#32 0x40000000#32 = true
  | .pwroff, .host w => rowHit w 0xFFFFFFFF#32 0x50000000#32 = true
  | .readfb _, .host w => rowHit w 0xFFFFE000#32 0x60000000#32 = true
  | .illegal _, .host w =>
    rowHit w 0xFFFF0000#32 0x10000000#32 = false ∧ rowHit w 0xFFFE0000#32 0x20000000#32 = false ∧
    rowHit w 0xFFFFFFFE#32 0x30000000#32 = false ∧ rowHit w 0xFFFFFFFF#32 0x40000000#32 = false ∧
    rowHit w 0xFFFFFFFF#32 0x50000000#32 = false ∧ rowHit w 0xFFFFE000#32 0x60000000#32 = false
  | .fbCreate _, .fb w => rowHit w 0xFF000000#32 0x00000000#32 = true
  | .fbSetBit _ _, .fb w => rowHit w 0xFE000000#32 0x40000000#32 = true
  | .fbRead _, .fb w => rowHit w 0xFF000000#32 0x80000000#32 = true
  | .fbIllegal _, .fb w =>
    rowHit w 0xFF000000#32 0x00000000#32 = false ∧ rowHit w 0xFE000000#32 0x40000000#32 = false ∧
    rowHit w 0xFF000000#32 0x80000000#32 = false
  | .init01, .unit .flush c => c = 0x01#8
  | .init0C, .unit .flush c => c = 0x0C#8
  | .init2C, .unit .flush c => c = 0x2C#8
  | .init3A, .unit .flush c => c = 0x3A#8
  | .init3B, .unit .flush c => c = 0x3B#8
  | .init11, .unit .flush c => c = 0x11#8
  | .lut, .unit .flush c => c = rom.lutCmd
  | .pon, .unit .powerOn c => c = rom.ponCmd
  | .act, .unit .powerOn c => c = rom.actCmd
  | .ramXwin, .unit .flush c => c = 0x44#8
  | .ramYwin, .unit .flush c => c = 0x45#8
  | .ramXptr, .unit .flush c => c = 0x4E#8
  | .ramYptr, .unit .flush c => c = 0x4F#8
  | .writeRam, .unit .flush c => c = 0x24#8
  | .update, .unit .flush c => c = 0x22#8
  | .sync20, .unit .flush c => c = 0x20#8
  | .syncFF, .unit .flush c => c = 0xFF#8
  | .poff12, .unit .powerOff c => c = 0x12#8
  | .poff82, .unit .powerOff c => c = 0x82#8
  | .poff01, .unit .powerOff c => c = 0x01#8
  | .poff02, .unit .powerOff c => c = 0x02#8
  | _, _ => False

/-- Whatever the ROM, a well-formed instruction's encoding is in its row. -/
def Statement (i : Instr) : Prop := ∀ rom : Rom, i.wellFormed = true → InRow rom i (encode rom i)

theorem create (w h : BitVec 8) : Statement (.create w h) := by
  intro rom _
  show rowHit _ _ _ = true
  have := w.isLt
  have := h.isLt
  rw [rowHit_create, toNat_encode_create, decide_eq_true_eq]
  omega

theorem setpix (x y : BitVec 8) (on : Bool) : Statement (.setpix x y on) := by
  intro rom _
  show rowHit _ _ _ = true
  have := x.isLt
  have := y.isLt
  rw [rowHit_setpix, toNat_encode_setpix, decide_eq_true_eq]
  cases on <;> simp only [Bool.toNat_true, Bool.toNat_false] <;> omega

theorem flushFull : Statement .flushFull := fun _ _ => by simp only [encode, InRow]; decide
theorem flushPartial : Statement .flushPartial := fun _ _ => by simp only [encode, InRow]; decide
theorem pwron : Statement .pwron := fun _ _ => by simp only [encode, InRow]; decide
theorem pwroff : Statement .pwroff := fun _ _ => by simp only [encode, InRow]; decide

theorem readfb (k : BitVec 13) : Statement (.readfb k) := by
  intro rom _
  show rowHit _ _ _ = true
  have := k.isLt
  rw [rowHit_readfb, toNat_encode_readfb, decide_eq_true_eq]
  omega

theorem illegal (w : Word) : Statement (.illegal w) := by
  intro rom h
  have h : ¬ hostWordLegal w = true := by simpa [Instr.wellFormed] using h
  rw [hostWordLegal_iff] at h
  simp only [encode, InRow, rowHit_create, rowHit_setpix, rowHit_flush, rowHit_exact, rowHit_readfb,
    decide_eq_false_iff_not, BitVec.toNat_ofNat]
  omega

theorem fbCreate (c : BitVec 24) : Statement (.fbCreate c) := by
  intro rom _
  show rowHit _ _ _ = true
  have := c.isLt
  rw [rowHit_fbCreate, toNat_encode_fbCreate, decide_eq_true_eq]
  omega

theorem fbSetBit (i : BitVec 24) (on : Bool) : Statement (.fbSetBit i on) := by
  intro rom _
  show rowHit _ _ _ = true
  have := i.isLt
  rw [rowHit_fbSetBit, toNat_encode_fbSetBit, decide_eq_true_eq]
  cases on <;> simp only [Bool.toNat_true, Bool.toNat_false] <;> omega

theorem fbRead (k : BitVec 24) : Statement (.fbRead k) := by
  intro rom _
  show rowHit _ _ _ = true
  have := k.isLt
  rw [rowHit_fbRead, toNat_encode_fbRead, decide_eq_true_eq]
  omega

theorem fbIllegal (w : Word) : Statement (.fbIllegal w) := by
  intro rom h
  have h : ¬ fbWordLegal w = true := by simpa [Instr.wellFormed] using h
  rw [fbWordLegal_iff] at h
  simp only [encode, InRow, rowHit_fbCreate, rowHit_fbSetBit, rowHit_fbRead, decide_eq_false_iff_not]
  omega

theorem init01 : Statement .init01 := fun _ _ => rfl
theorem init0C : Statement .init0C := fun _ _ => rfl
theorem init2C : Statement .init2C := fun _ _ => rfl
theorem init3A : Statement .init3A := fun _ _ => rfl
theorem init3B : Statement .init3B := fun _ _ => rfl
theorem init11 : Statement .init11 := fun _ _ => rfl
theorem lut : Statement .lut := fun _ _ => rfl
theorem pon : Statement .pon := fun _ _ => rfl
theorem act : Statement .act := fun _ _ => rfl
theorem ramXwin : Statement .ramXwin := fun _ _ => rfl
theorem ramYwin : Statement .ramYwin := fun _ _ => rfl
theorem ramXptr : Statement .ramXptr := fun _ _ => rfl
theorem ramYptr : Statement .ramYptr := fun _ _ => rfl
theorem writeRam : Statement .writeRam := fun _ _ => rfl
theorem update : Statement .update := fun _ _ => rfl
theorem sync20 : Statement .sync20 := fun _ _ => rfl
theorem syncFF : Statement .syncFF := fun _ _ => rfl
theorem poff12 : Statement .poff12 := fun _ _ => rfl
theorem poff82 : Statement .poff82 := fun _ _ => rfl
theorem poff01 : Statement .poff01 := fun _ _ => rfl
theorem poff02 : Statement .poff02 := fun _ _ => rfl

end Sys2Proof.Laws.EncodeInRow
end

