-- ==== Sys2Proof/Tests/Slice0.lean ====
section
/-! SUPPORT. Tests: the well-formedness smoke test, every constructor's decoding from words written out from
30_encoding.md, single steps against the values of 95_test_vectors.md, and for each statement with hypotheses a concrete
state and operands that meet them. -/

open Sys2Proof Sys2Proof.Machine Sys2Proof.Expected

namespace Sys2Proof.Tests

/-! ### Small states -/

/-- A ROM with a telling byte in each payload, and open command bytes that are no fixed byte. -/
def rom : Rom where
  initData01 := [0xA1#8]
  initData0C := [0xA2#8]
  initData2C := [0xA3#8]
  initData3A := [0xA4#8]
  initData3B := [0xA5#8]
  initData11 := [0xA6#8]
  lutCmd := 0x32#8
  lutFull := Vector.replicate 29 0xF0#8
  lutPartial := Vector.replicate 29 0x0F#8
  ponCmd := 0x05#8
  ponData := [0xB1#8]
  actCmd := 0x06#8
  actData := [0xB2#8]
  poffData12 := [0xC1#8]
  poffData82 := []
  poffData01 := [0xC3#8]
  poffData02 := [0xC4#8]

/-- After reset, with the ROM above and XMAX = 8. -/
def fresh : State := { State.reset with rom := rom, xmax := 8#16 }

/-- After CREATE 8, 2, SETPIX 0, 0, 1 and SETPIX 7, 1, 1 (95_test_vectors.md P1), beside a harness whose FB alone holds
the same buffer. -/
def sized : State :=
  { fresh with
    status := { fresh.status with configured := true }
    cfg := { configured := true, w := 8#8, h := 2#8 }
    fb := { cap := 16#16, bytes := [(0, 0x01#8), (1, 0x80#8)] }
    alone := { fb := { cap := 16#16, bytes := [(0, 0x01#8), (1, 0x80#8)] }, code := 0#4, data := none } }

/-- After CREATE 4, 2 and SETPIX 3, 1, 1, with XMAX = 4 (95_test_vectors.md P6). -/
def narrow : State :=
  { sized with
    xmax := 4#16
    cfg := { configured := true, w := 4#8, h := 2#8 }
    fb := { cap := 8#16, bytes := [(0, 0x80#8)] } }

/-- `s` with an operation running at an action and a phase. -/
def busyAt (op : BitVec 3) (m : Mode) (acts : List Action) (n : BitVec 5) (p : Phase) (s : State) : State :=
  { s with
    status := { s.status with ready := false }
    seq := { phase := p, op := op, mode := m, step := n, acts := acts }
    port := { s.port with req := decide (p = .resp) } }

/-- A Full flush of 8, 2. -/
def fullAt (n : BitVec 5) (p : Phase) : State := busyAt 3#3 .full (fullActs rom 8#8 2#8) n p sized

/-- A Partial flush of 8, 2. -/
def partialAt (n : BitVec 5) (p : Phase) : State := busyAt 3#3 .partial_ (partialActs rom 8#8 2#8) n p sized

/-- PWRON of the unconfigured block. -/
def ponAt (n : BitVec 5) (p : Phase) : State := busyAt 4#3 .full (ponActs rom) n p fresh

/-- PWROFF of the unconfigured block. -/
def poffAt (n : BitVec 5) (p : Phase) : State := busyAt 5#3 .full (poffActs rom) n p fresh

/-- `s` with the panel's lines. -/
def lines (busy : Bool) (r : Resp) (s : State) : State := { s with port := { s.port with busy := busy, resp := r } }

/-- `s` with CTRL.CANCEL set. -/
def cancelled (s : State) : State := { s with cancel := true }

/-- `s` with moves to come. -/
def given (ms : List Move) (s : State) : State := { s with moves := ms }

/-- An aligned 32-bit access. -/
def word (offset : Nat) : Access := { offset := offset, width := 4 }

/-- The next state, if there is one. -/
def after (o : Host.Outcome State Fault Refusal) : Option State :=
  match o with
  | .next s => some s
  | .fault _ => none
  | .refused _ => none

/-- STATUS and the buffer after an instruction. -/
def result (i : Instr) (s : State) : Option (Word × Memory) := (after (exec i s)).map (fun t => (t.status.word, t.fb.bytes))

/-- The response and the buffer of the FB alone after a harness's request. -/
def answer (i : Instr) (s : State) : Option (BitVec 4 × Option Byte × Memory) :=
  (after (exec i s)).map (fun t => (t.alone.code, t.alone.data, t.alone.fb.bytes))

/-- The trace after an instruction. -/
def traceOf (i : Instr) (s : State) : Option (List PanelEvent) := (after (exec i s)).map (fun t => t.trace)

/-! ### Well-formedness (30_encoding.md R77, R78, R82) -/

theorem test_illegal_form_refuses_legal_host_words :
    (Instr.illegal 0x10000802#32).wellFormed = false ∧ (Instr.illegal 0x20010701#32).wellFormed = false ∧
    (Instr.illegal 0x30000001#32).wellFormed = false ∧ (Instr.illegal 0x40000000#32).wellFormed = false ∧
    (Instr.illegal 0x50000000#32).wellFormed = false ∧ (Instr.illegal 0x60001FFF#32).wellFormed = false := by decide

theorem test_fbIllegal_form_refuses_legal_fb_words :
    (Instr.fbIllegal 0x00000010#32).wellFormed = false ∧ (Instr.fbIllegal 0x41000009#32).wellFormed = false ∧
    (Instr.fbIllegal 0x80000007#32).wellFormed = false := by decide

theorem test_illegal_forms_of_illegal_words :
    (Instr.illegal 0x30000002#32).wellFormed = true ∧ (Instr.fbIllegal 0x81000000#32).wellFormed = true := by decide

/-! ### Decoding, by words from the spec's encodings -/

theorem test_decode_create :
    decodeHost 0b00010000000000000000100000000010#32 = .create 8#8 2#8 ∧
    decodeHost 0x1000FF08#32 = .create 255#8 8#8 := by decide

theorem test_decode_setpix :
    decodeHost 0b00100000000000010000011100000001#32 = .setpix 7#8 1#8 true ∧
    decodeHost 0x20000300#32 = .setpix 3#8 0#8 false := by decide

theorem test_decode_flush : decodeHost 0x30000000#32 = .flushFull ∧ decodeHost 0x30000001#32 = .flushPartial := by decide

theorem test_decode_power : decodeHost 0x40000000#32 = .pwron ∧ decodeHost 0x50000000#32 = .pwroff := by decide

theorem test_decode_readfb :
    decodeHost 0b01100000000000000000000000000001#32 = .readfb 1#13 ∧
    decodeHost 0x60001FFF#32 = .readfb 8191#13 := by decide

theorem test_decode_illegal :
    decodeHost 0x10010802#32 = .illegal 0x10010802#32 ∧ decodeHost 0x20020000#32 = .illegal 0x20020000#32 ∧
    decodeHost 0x30000002#32 = .illegal 0x30000002#32 ∧ decodeHost 0x40000001#32 = .illegal 0x40000001#32 ∧
    decodeHost 0x50000100#32 = .illegal 0x50000100#32 ∧ decodeHost 0x60002000#32 = .illegal 0x60002000#32 ∧
    decodeHost 0x00000000#32 = .illegal 0x00000000#32 ∧ decodeHost 0xFFFFFFFF#32 = .illegal 0xFFFFFFFF#32 := by decide

theorem test_decode_fb_requests :
    decodeFb 0x0000FE00#32 = .fbCreate 65024#24 ∧ decodeFb 0x41000009#32 = .fbSetBit 9#24 true ∧
    decodeFb 0x4000003F#32 = .fbSetBit 63#24 false ∧ decodeFb 0x80000007#32 = .fbRead 7#24 := by decide

theorem test_decode_fb_illegal :
    decodeFb 0xC0000000#32 = .fbIllegal 0xC0000000#32 ∧ decodeFb 0x02000000#32 = .fbIllegal 0x02000000#32 ∧
    decodeFb 0x01000008#32 = .fbIllegal 0x01000008#32 ∧ decodeFb 0x81000000#32 = .fbIllegal 0x81000000#32 := by decide

theorem test_decode_init_units :
    decodeFixedUnit .flush 0x01#8 = some .init01 ∧ decodeFixedUnit .flush 0x0C#8 = some .init0C ∧
    decodeFixedUnit .flush 0x2C#8 = some .init2C ∧ decodeFixedUnit .flush 0x3A#8 = some .init3A ∧
    decodeFixedUnit .flush 0x3B#8 = some .init3B ∧ decodeFixedUnit .flush 0x11#8 = some .init11 := by decide

theorem test_decode_addressing_and_data_units :
    decodeFixedUnit .flush 0x44#8 = some .ramXwin ∧ decodeFixedUnit .flush 0x45#8 = some .ramYwin ∧
    decodeFixedUnit .flush 0x4E#8 = some .ramXptr ∧ decodeFixedUnit .flush 0x4F#8 = some .ramYptr ∧
    decodeFixedUnit .flush 0x24#8 = some .writeRam := by decide

theorem test_decode_update_units :
    decodeFixedUnit .flush 0x22#8 = some .update ∧ decodeFixedUnit .flush 0x20#8 = some .sync20 ∧
    decodeFixedUnit .flush 0xFF#8 = some .syncFF := by decide

theorem test_decode_power_off_units :
    decodeFixedUnit .powerOff 0x12#8 = some .poff12 ∧ decodeFixedUnit .powerOff 0x82#8 = some .poff82 ∧
    decodeFixedUnit .powerOff 0x01#8 = some .poff01 ∧ decodeFixedUnit .powerOff 0x02#8 = some .poff02 := by decide

theorem test_decode_open_units :
    decode rom (.unit .flush 0x32#8) = .ok .lut ∧ decode rom (.unit .powerOn 0x05#8) = .ok .pon ∧
    decode rom (.unit .powerOn 0x06#8) = .ok .act := ⟨rfl, rfl, rfl⟩

/-- 0x44 is no unit of the power-off sequence. -/
theorem test_decode_refuses_an_unknown_unit :
    decode rom (.unit .powerOff 0x44#8) = .error (.unknownUnit .powerOff 0x44#8) := rfl

/-! ### Host operations (95_test_vectors.md 2.3 to 2.5, 2.11, P1, P2) -/

theorem test_create : result (.create 8#8 2#8) fresh = some (0x00000003#32, [(0, 0x00#8), (1, 0x00#8)]) := by decide

theorem test_create_invalid_size_keeps_the_buffer :
    result (.create 3#8 3#8) sized = some (0x00000103#32, [(0, 0x01#8), (1, 0x80#8)]) := by decide

/-- SETPIX 3, 0, 1 sets bit 3 of byte 0. -/
theorem test_setpix : result (.setpix 3#8 0#8 true) sized = some (0x00000003#32, [(0, 0x09#8), (1, 0x80#8)]) := by decide

/-- X = W is admitted and reaches the next row; X = 9 is out of bounds; Y = H reaches CAP. -/
theorem test_setpix_boundary :
    result (.setpix 8#8 0#8 true) sized = some (0x00000003#32, [(0, 0x01#8), (1, 0x81#8)]) ∧
    result (.setpix 9#8 2#8 true) sized = some (0x00000303#32, [(0, 0x01#8), (1, 0x80#8)]) ∧
    result (.setpix 0#8 2#8 true) sized = some (0x00000203#32, [(0, 0x01#8), (1, 0x80#8)]) := by decide

theorem test_readfb : result (.readfb 1#13) sized = some (0x00800003#32, [(0, 0x01#8), (1, 0x80#8)]) := by decide

theorem test_readfb_errors :
    result (.readfb 2#13) sized = some (0x00000203#32, [(0, 0x01#8), (1, 0x80#8)]) ∧
    result (.readfb 0#13) fresh = some (0x00000601#32, []) := by decide

/-- READY is 0, STEP 0, and the 16 or 18 actions wait. -/
theorem test_flush_starts :
    (after (exec .flushFull sized)).map (fun t => (t.status.word, t.seq.phase, t.seq.acts.length)) =
      some (0x00000002#32, .start, 16) ∧
    (after (exec .flushPartial sized)).map (fun t => (t.seq.mode, t.seq.op, t.seq.acts.length)) =
      some (.partial_, 3#3, 18) := by decide

theorem test_flush_unconfigured :
    result .flushFull fresh = some (0x00000601#32, []) ∧ result .flushPartial fresh = some (0x00000601#32, []) := by decide

theorem test_power_starts :
    (after (exec .pwron fresh)).map (fun t => (t.status.word, t.seq.op, t.seq.acts.length)) = some (0#32, 4#3, 3) ∧
    (after (exec .pwroff fresh)).map (fun t => (t.status.word, t.seq.op, t.seq.acts.length)) = some (0#32, 5#3, 4) := by
  decide

theorem test_illegal_word : result (.illegal 0x30000002#32) fresh = some (0x00000701#32, []) := by decide

/-- The lost command of 95_test_vectors.md 2.9. -/
theorem test_lost_command :
    result (.setpix 1#8 0#8 true) (fullAt 0#5 .wait) = some (0x0000000A#32, [(0, 0x01#8), (1, 0x80#8)]) := by decide

/-! ### Registers (95_test_vectors.md 2.12) -/

theorem test_status_after_reset : State.reset.status.word = 0x00000001#32 := by decide

theorem test_ctrl_write_keeps_bit_zero :
    (after (step (given [.hostWrite (word 8) 0xFFFFFFFE#32] (cancelled fresh)))).map (fun t => t.cancel) = some false := by
  decide

theorem test_status_write_is_ignored :
    (after (step (given [.hostWrite (word 4) 0x12345678#32] sized))) = some sized := by decide

theorem test_reads :
    (after (step (given [.hostRead (word 4)] sized))).map (fun t => t.hostData) = some 0x00000003#32 ∧
    (after (step (given [.hostRead (word 8)] (cancelled sized)))).map (fun t => t.hostData) = some 1#32 ∧
    (after (step (given [.hostRead (word 0)] (cancelled sized)))).map (fun t => t.hostData) = some 0#32 ∧
    (after (step (given [.hostRead (word 12)] sized))).map (fun t => t.hostData) = some 0#32 := by decide

/-! ### The FB port (95_test_vectors.md 2.2, L1-3) -/

theorem test_fb_create :
    answer (.fbCreate 16#24) sized = some (0#4, none, [(0, 0x00#8), (1, 0x00#8)]) ∧
    answer (.fbCreate 65032#24) sized = some (1#4, none, [(0, 0x01#8), (1, 0x80#8)]) := by decide

theorem test_fb_set_bit :
    answer (.fbSetBit 9#24 true) sized = some (0#4, none, [(0, 0x01#8), (1, 0x82#8)]) ∧
    answer (.fbSetBit 15#24 false) sized = some (0#4, none, [(0, 0x01#8), (1, 0x00#8)]) := by decide

theorem test_fb_set_bit_at_the_capacity :
    answer (.fbSetBit 16#24 true) sized = some (2#4, none, [(0, 0x01#8), (1, 0x80#8)]) := by decide

theorem test_fb_read :
    answer (.fbRead 1#24) sized = some (0#4, some 0x80#8, [(0, 0x01#8), (1, 0x80#8)]) ∧
    answer (.fbRead 2#24) sized = some (2#4, none, [(0, 0x01#8), (1, 0x80#8)]) := by decide

theorem test_fb_illegal : answer (.fbIllegal 0xC0000000#32) sized = some (7#4, none, [(0, 0x01#8), (1, 0x80#8)]) := by
  decide

/-! ### Units at SEND (95_test_vectors.md V-FL1, V-FL2, 2.10) -/

theorem test_init_units :
    traceOf .init01 (fullAt 0#5 .send) = some [.sent 0x01#8 [0xA1#8]] ∧
    traceOf .init0C (fullAt 1#5 .send) = some [.sent 0x0C#8 [0xA2#8]] ∧
    traceOf .init2C (fullAt 2#5 .send) = some [.sent 0x2C#8 [0xA3#8]] ∧
    traceOf .init3A (fullAt 3#5 .send) = some [.sent 0x3A#8 [0xA4#8]] ∧
    traceOf .init3B (fullAt 4#5 .send) = some [.sent 0x3B#8 [0xA5#8]] ∧
    traceOf .init11 (fullAt 5#5 .send) = some [.sent 0x11#8 [0xA6#8]] := by decide

theorem test_lut_follows_the_mode :
    traceOf .lut (fullAt 6#5 .send) = some [.sent 0x32#8 (List.replicate 29 0xF0#8)] ∧
    traceOf .lut (partialAt 6#5 .send) = some [.sent 0x32#8 (List.replicate 29 0x0F#8)] := by decide

theorem test_power_on_units :
    traceOf .pon (ponAt 0#5 .send) = some [.sent 0x05#8 [0xB1#8]] ∧
    traceOf .act (ponAt 1#5 .send) = some [.sent 0x06#8 [0xB2#8]] := by decide

theorem test_window_units :
    traceOf .ramXwin (partialAt 10#5 .send) = some [.sent 0x44#8 [0x00#8, 0x00#8]] ∧
    traceOf .ramYwin (partialAt 11#5 .send) = some [.sent 0x45#8 [0x00#8, 0x00#8, 0x01#8, 0x00#8]] := by decide

theorem test_pointer_units :
    traceOf .ramXptr (fullAt 10#5 .send) = some [.sent 0x4E#8 [0x00#8]] ∧
    traceOf .ramYptr (fullAt 11#5 .send) = some [.sent 0x4F#8 [0x01#8, 0x00#8]] ∧
    traceOf .ramYptr (partialAt 13#5 .send) = some [.sent 0x4F#8 [0x00#8, 0x00#8]] := by decide

/-- The sizes of 95_test_vectors.md V-FL3: 16, 3 and 248, 255. -/
theorem test_coordinates_of_other_sizes :
    lastColumn 16#8 = 0x01#8 ∧ lastRowLow 3#8 = 0x02#8 ∧ lastColumn 248#8 = 0x1E#8 ∧ lastRowLow 255#8 = 0xFE#8 ∧
    transferBytes 16#8 3#8 = 6 ∧ transferBytes 248#8 255#8 = 7905 ∧ transferBytes 255#8 8#8 = 256 := by decide

theorem test_write_ram :
    traceOf .writeRam (fullAt 12#5 .send) = some [.sent 0x24#8 [0x01#8, 0x80#8]] := by decide

/-- V-OV1. -/
theorem test_write_ram_overrun :
    result .writeRam (busyAt 3#3 .full (fullActs rom 4#8 2#8) 12#5 .start narrow) =
      some (0x00000503#32, [(0, 0x80#8)]) := by decide

theorem test_update_units :
    traceOf .update (fullAt 13#5 .send) = some [.sent 0x22#8 [0xC7#8]] ∧
    traceOf .update (partialAt 15#5 .send) = some [.sent 0x22#8 [0x04#8]] ∧
    traceOf .sync20 (fullAt 14#5 .send) = some [.sent 0x20#8 []] ∧
    traceOf .syncFF (fullAt 15#5 .send) = some [.sent 0xFF#8 []] := by decide

theorem test_power_off_units :
    traceOf .poff12 (poffAt 0#5 .send) = some [.sent 0x12#8 [0xC1#8]] ∧
    traceOf .poff82 (poffAt 1#5 .send) = some [.sent 0x82#8 []] ∧
    traceOf .poff01 (poffAt 2#5 .send) = some [.sent 0x01#8 [0xC3#8]] ∧
    traceOf .poff02 (poffAt 3#5 .send) = some [.sent 0x02#8 [0xC4#8]] := by decide

/-- The last OK ends the flush with CODE 0; a FAIL ends it with CODE 4 (95_test_vectors.md 2.8). -/
theorem test_answers :
    (after (exec .syncFF (lines false .ok (fullAt 15#5 .resp)))).map (fun t => (t.status.word, t.trace)) =
      some (0x00000003#32, [.ok]) ∧
    (after (exec .init01 (lines false .fail (fullAt 0#5 .resp)))).map (fun t => (t.status.word, t.trace)) =
      some (0x00000403#32, [.fail]) := by decide

/-- A wait cut short sets WC and goes on (95_test_vectors.md 2.9). -/
theorem test_cancelled_wait :
    (after (exec .init01 (cancelled (lines true .none (fullAt 0#5 .wait))))).map (fun t => (t.status.word, t.seq.phase)) =
      some (0x00000006#32, .send) := by decide

/-! ### Sound states -/

theorem fbSound_sized : FbSound sized.fb := by constructor <;> decide

theorem fbSound_narrow : FbSound narrow.fb := by constructor <;> decide

theorem fbSound_fresh : FbSound fresh.fb := by constructor <;> decide

theorem cap_fresh : CapAgrees fresh := by unfold CapAgrees; decide

theorem cap_sized : CapAgrees sized := by unfold CapAgrees; decide

theorem cap_narrow : CapAgrees narrow := by unfold CapAgrees; decide

theorem inv_fresh : BlockInv fresh where
  fb := fbSound_fresh
  alone := fbSound_fresh
  cap_agrees := cap_fresh
  ready_idle := by decide
  configured_copy := by decide
  dims := by decide
  req_resp := by decide
  code_known := by decide
  code_running := by decide
  idle_clear := by decide
  running := fun h => absurd rfl h
  xmax_range := by decide
  rom_wf := by decide

theorem inv_sized : BlockInv sized :=
  { inv_fresh with fb := fbSound_sized, alone := fbSound_sized, cap_agrees := cap_sized, configured_copy := by decide, dims := by decide, idle_clear := by decide,
                   running := fun h => absurd rfl h }

theorem inv_narrow : BlockInv narrow :=
  { inv_sized with fb := fbSound_narrow, cap_agrees := cap_narrow, dims := by decide, idle_clear := by decide, running := fun h => absurd rfl h,
                   xmax_range := by decide }

theorem five_sized : fiveInvariants sized := by unfold fiveInvariants; decide

/-- A running operation on a sound state is sound. -/
theorem inv_busyAt {op : BitVec 3} {m : Mode} {acts : List Action} {n : BitVec 5} {p : Phase} {s : State}
    (h : BlockInv s) (hc : s.status.code = 0#4) (hp : p ≠ .idle) (r : Running (busyAt op m acts n p s)) :
    BlockInv (busyAt op m acts n p s) where
  fb := h.fb
  ready_idle := ⟨fun e => absurd e (by simp [busyAt]), fun e => absurd e hp⟩
  configured_copy := h.configured_copy
  cap_agrees := h.cap_agrees
  alone := h.alone
  dims := h.dims
  req_resp := by simp [busyAt]
  code_known := h.code_known
  code_running := fun _ => hc
  idle_clear := fun e => absurd e hp
  running := fun _ => r
  xmax_range := h.xmax_range
  rom_wf := h.rom_wf

/-- The outside world's data change no invariant. -/
theorem inv_lines {s : State} (b : Bool) (a : Resp) (h : BlockInv s) : BlockInv (lines b a s) :=
  { h with running := fun hp => { h.running hp with } }

theorem inv_cancelled {s : State} (h : BlockInv s) : BlockInv (cancelled s) :=
  { h with running := fun hp => { h.running hp with } }

theorem inv_given {s : State} (ms : List Move) (h : BlockInv s) : BlockInv (given ms s) :=
  { h with running := fun hp => { h.running hp with } }

theorem inv_fullAt (n : BitVec 5) (p : Phase) (hp : p ≠ .idle) (r : Running (fullAt n p)) : BlockInv (fullAt n p) :=
  inv_busyAt inv_sized rfl hp r

theorem inv_ponAt (n : BitVec 5) (p : Phase) (hp : p ≠ .idle) (r : Running (ponAt n p)) : BlockInv (ponAt n p) :=
  inv_busyAt inv_fresh rfl hp r

theorem run_full_start : Running (fullAt 0#5 .start) := by constructor <;> decide

theorem run_full_wait : Running (fullAt 0#5 .wait) := by constructor <;> decide

theorem run_full_waitOnly : Running (fullAt 9#5 .wait) := by constructor <;> decide

theorem run_full_send : Running (fullAt 0#5 .send) := by constructor <;> decide

theorem run_full_xfer_start : Running (fullAt 12#5 .start) := by constructor <;> decide

theorem run_full_xfer_send : Running (fullAt 12#5 .send) := by constructor <;> decide

theorem run_full_resp : Running (fullAt 0#5 .resp) := by constructor <;> decide

theorem run_full_last_resp : Running (fullAt 15#5 .resp) := by constructor <;> decide

theorem run_pon_waitOnly : Running (ponAt 2#5 .wait) := by constructor <;> decide

/-! ### Witnesses: for each statement with hypotheses, a state and operands that meet them, clause by clause -/

theorem witness_DecodeEncodeAgree :
    (Instr.setpix 255#8 255#8 true).wellFormed = true ∧ (Instr.illegal 0xFFFFFFFF#32).wellFormed = true ∧
    decodeFixedUnit .flush rom.lutCmd = none ∧ rom.actCmd ≠ rom.ponCmd := by decide

theorem witness_EncodeDecodeAgree :
    decode rom (.host 0x60001FFF#32) = .ok (.readfb 8191#13) ∧ decode rom (.fb 0x0000FE00#32) = .ok (.fbCreate 65024#24) ∧
    decode rom (.unit .powerOff 0x02#8) = .ok .poff02 := ⟨rfl, rfl, rfl⟩

theorem witness_HostWordLegality :
    hostWordLegal 0x30000002#32 = false ∧ hostWordLegal 0x1000FFFF#32 = true ∧
    (matching hostRows 0x1000FFFF#32).length = 1 := by decide

theorem witness_StepRunsTheInstruction :
    (given [.hostWrite (word 0) 0x10000802#32] fresh).moves = .hostWrite { offset := 0, width := 4 } 0x10000802#32 :: [] ∧
    decode rom (.host 0x10000802#32) = .ok (.create 8#8 2#8) ∧
    (given [.fbRequest 0x80000001#32] sized).moves = .fbRequest 0x80000001#32 :: [] ∧
    decode rom (.fb 0x80000001#32) = .ok (.fbRead 1#24) :=
  ⟨rfl, rfl, rfl, rfl⟩

theorem witness_StepRunsTheInstruction_engine :
    (fullAt 0#5 .send).seq.phase ≠ .idle ∧ (fullAt 0#5 .send).moves = [] ∧
    currentAction (fullAt 0#5 .send) = some (.unit .init01 { cmd := 0x01#8, data := [0xA1#8] }) ∧
    (given [.seq] (fullAt 12#5 .send)).moves = .seq :: [] ∧
    currentAction (given [.seq] (fullAt 12#5 .send)) = some .xfer := by decide

theorem witness_PlacedWordRuns :
    decodeTableWord 32 0x10000802 = some (.create 8#8 2#8) ∧ decodeTableWord 32 0x80000007 = some (.fbRead 7#24) ∧
    decodeTableWord 8 0x24 = some .writeRam ∧ decodeTableWord 8 0x82 = some .poff82 := by decide

theorem witness_ResetAtAnyTime : (given [.reset] (fullAt 0#5 .resp)).moves = .reset :: [] := rfl

theorem witness_IdleBlockWaits : sized.seq.phase = .idle ∧ sized.moves = [] := by decide

/-- An idle block that takes a CREATE, and a running one that sends a unit. -/
theorem witness_StepKeepsInv :
    BlockInv (given [.hostWrite (word 0) 0x10000802#32] fresh) ∧
    (∃ t, step (given [.hostWrite (word 0) 0x10000802#32] fresh) = .next t) ∧
    BlockInv (fullAt 0#5 .send) ∧ ∃ t, step (fullAt 0#5 .send) = .next t :=
  ⟨inv_given _ inv_fresh, ⟨_, rfl⟩, inv_fullAt _ _ (by decide) run_full_send, ⟨_, rfl⟩⟩

theorem witness_StepKeepsFiveInvariants :
    fiveInvariants (given [.hostWrite (word 0) 0x10000802#32] sized) ∧
    ∃ t, step (given [.hostWrite (word 0) 0x10000802#32] sized) = .next t :=
  ⟨five_sized, ⟨_, rfl⟩⟩

theorem witness_SoundStatesStep :
    BlockInv (given [.hostRead (word 12)] (fullAt 0#5 .wait)) ∧
    HostAccessesAligned (given [.hostRead (word 12)] (fullAt 0#5 .wait)) :=
  ⟨inv_given _ (inv_fullAt _ _ (by decide) run_full_wait), by
    intro a rest
    exact ⟨by intro v h; simp [given] at h, by intro h; simp [given] at h; rw [← h.1]; decide⟩⟩

theorem witness_OperationIsConstant :
    BlockInv (lines false .ok (fullAt 0#5 .resp)) ∧ (lines false .ok (fullAt 0#5 .resp)).seq.phase ≠ .idle ∧
    ∃ t, step (lines false .ok (fullAt 0#5 .resp)) = .next t ∧ t.seq.phase ≠ .idle :=
  ⟨inv_lines _ _ (inv_fullAt _ _ (by decide) run_full_resp), by decide, ⟨_, rfl, by decide⟩⟩

/-- A step that changes CFG and the FB, one that changes the FB a harness has alone, one that changes CANCEL. -/
theorem witness_OnlyTheNamedWriters :
    ((after (step (given [.hostWrite (word 0) 0x10001001#32] sized))).map (fun t => (t.cfg ≠ sized.cfg ∧ t.fb ≠ sized.fb : Bool)) = some true) ∧
    ((after (step (given [.fbRequest 0x41000001#32] sized))).map (fun t => decide (t.alone.fb ≠ sized.alone.fb)) = some true) ∧
    ((after (step (given [.hostWrite (word 8) 1#32] sized))).map (fun t => decide (t.cancel ≠ sized.cancel)) = some true) := by
  decide

theorem witness_LostCommandSetsCl :
    isHostWord (.create 8#8 2#8) ∧ isHostWord .pwroff ∧
    (given [.hostWrite (word 0) 0x20010100#32] (fullAt 0#5 .wait)).status.ready = false ∧
    (given [.hostWrite (word 0) 0x20010100#32] (fullAt 0#5 .wait)).moves =
      .hostWrite { offset := 0, width := 4 } 0x20010100#32 :: [] :=
  ⟨by simp [isHostWord, isBufferWord], by simp [isHostWord], by decide, by decide⟩

/-- W = 0, H = 0, 3 by 3, and the two sizes at the top of the range that decide otherwise. -/
theorem witness_CreateResult :
    fresh.status.ready = true ∧ (0#8).toNat = 0 ∧ ((3#8).toNat * (3#8).toNat) % 8 ≠ 0 ∧
    ((255#8).toNat * (255#8).toNat) % 8 ≠ 0 ∧
    ¬((255#8).toNat = 0 ∨ (248#8).toNat = 0 ∨ ((255#8).toNat * (248#8).toNat) % 8 ≠ 0) ∧
    ¬((1#8).toNat = 0 ∨ (8#8).toNat = 0 ∨ ((1#8).toNat * (8#8).toNat) % 8 ≠ 0) := by decide

/-- Unconfigured; X = W + 1; Y = H at X = 0, in bounds with index CAP; and pixel (7, 1), with index CAP - 1. -/
theorem witness_SetpixResult :
    fresh.status.ready = true ∧ FbSound fresh.fb ∧ fresh.cfg.configured = false ∧
    sized.status.ready = true ∧ FbSound sized.fb ∧ sized.cfg.configured = true ∧
    (9#8).toNat > sized.cfg.w.toNat ∧
    (¬((0#8).toNat > sized.cfg.w.toNat ∨ (2#8).toNat > sized.cfg.h.toNat) ∧
      (2#8).toNat * sized.xmax.toNat + (0#8).toNat = sized.fb.cap.toNat) ∧
    ¬((7#8).toNat > sized.cfg.w.toNat ∨ (1#8).toNat > sized.cfg.h.toNat) ∧
    (1#8).toNat * sized.xmax.toNat + (7#8).toNat + 1 = sized.fb.cap.toNat :=
  ⟨by decide, fbSound_fresh, by decide, by decide, fbSound_sized, by decide, by decide, by decide, by decide, by decide⟩

theorem witness_ReadfbResult :
    fresh.status.ready = true ∧ FbSound fresh.fb ∧ fresh.cfg.configured = false ∧
    sized.status.ready = true ∧ FbSound sized.fb ∧ sized.cfg.configured = true ∧
    (2#13).toNat ≥ sized.fb.cap.toNat / 8 ∧ ¬((1#13).toNat ≥ sized.fb.cap.toNat / 8) :=
  ⟨by decide, fbSound_fresh, by decide, by decide, fbSound_sized, by decide, by decide, by decide⟩

/-- Ready, not configured and configured. -/
theorem witness_FlushStarts :
    (fresh.status.ready = true ∧ fresh.cfg.configured = false) ∧ (sized.status.ready = true ∧ sized.cfg.configured = true) := by
  decide

theorem witness_PowerOperationsStart : fresh.status.ready = true ∧ sized.status.ready = true := by decide

theorem witness_IllegalWordCompletes : sized.status.ready = true ∧ BlockInv sized := ⟨by decide, inv_sized⟩

theorem witness_BufferWordsIgnoreThePanel :
    isBufferWord (.setpix 7#8 1#8 true) ∧ isBufferWord (.illegal 0#32) ∧
    (∃ t, exec (.setpix 7#8 1#8 true) sized = .next t) ∧ ∃ t, exec (.illegal 0#32) (fullAt 0#5 .wait) = .next t :=
  ⟨by simp [isBufferWord], by simp [isBufferWord], ⟨_, rfl⟩, ⟨_, rfl⟩⟩

theorem witness_HostErrorsArePrecise :
    BlockInv sized ∧ isHostWord (.setpix 9#8 0#8 true) ∧ sized.status.ready = true ∧
    ∃ t, exec (.setpix 9#8 0#8 true) sized = .next t ∧ t.status.code ≠ 0#4 :=
  ⟨inv_sized, by simp [isHostWord, isBufferWord], by decide, ⟨_, rfl, by decide⟩⟩

theorem witness_RegisterWrites :
    (8 % 4 = 0 ∧ 8 ≠ 0 ∧ (given [.hostWrite (word 8) 1#32] sized).moves = .hostWrite { offset := 8, width := 4 } 1#32 :: []) ∧
    (4 % 4 = 0 ∧ 4 ≠ 0 ∧ (given [.hostWrite (word 4) 1#32] sized).moves = .hostWrite { offset := 4, width := 4 } 1#32 :: []) ∧
    (12 % 4 = 0 ∧ (given [.hostWrite (word 12) 1#32] sized).moves = .hostWrite { offset := 12, width := 4 } 1#32 :: []) := by
  decide

theorem witness_RegisterReads :
    (given [.hostRead (word 0)] sized).moves = .hostRead { offset := 0, width := 4 } :: [] ∧
    (given [.hostRead (word 4)] sized).moves = .hostRead { offset := 4, width := 4 } :: [] ∧
    (given [.hostRead (word 8)] sized).moves = .hostRead { offset := 8, width := 4 } :: [] ∧
    (given [.hostRead (word 12)] sized).moves = .hostRead { offset := 12, width := 4 } :: [] := by decide

/-- A narrower, a wider and a misaligned access, and an aligned one. -/
theorem witness_OnlyAlignedWordsHaveMeaning :
    (given [.hostRead ⟨0, 2⟩] sized).moves = .hostRead ⟨0, 2⟩ :: [] ∧ (⟨0, 2⟩ : Access).width ≠ 4 ∧
    (given [.hostWrite ⟨0, 8⟩ 0#32] sized).moves = .hostWrite ⟨0, 8⟩ 0#32 :: [] ∧ (⟨0, 8⟩ : Access).width ≠ 4 ∧
    (given [.hostRead ⟨6, 4⟩] sized).moves = .hostRead ⟨6, 4⟩ :: [] ∧ (⟨6, 4⟩ : Access).offset % 4 ≠ 0 ∧
    (given [.hostRead ⟨4, 4⟩] sized).moves = .hostRead ⟨4, 4⟩ :: [] ∧ (⟨4, 4⟩ : Access).offset % 4 = 0 := by decide

theorem witness_CancelAndPollEitherOrder :
    (lines true .none (fullAt 0#5 .wait)).seq.phase = .wait ∧
    currentAction (lines true .none (fullAt 0#5 .wait)) = some (.unit .init01 { cmd := 0x01#8, data := [0xA1#8] }) ∧
    (lines true .none (fullAt 0#5 .wait)).port.busy = true ∧ (lines true .none (fullAt 0#5 .wait)).cancel = false := by
  decide

/-- The first and the last byte that has a value. -/
theorem witness_WriteBitChangesOneBit :
    (0 / 8 < Config.fbMaxBytes ∧ (sized.fb.bytes.read (0 / 8)).isSome = true) ∧
    (15 / 8 < Config.fbMaxBytes ∧ (sized.fb.bytes.read (15 / 8)).isSome = true) ∧
    (65023 / 8 < Config.fbMaxBytes ∧ (Memory.read [(8127, 0x00#8)] (65023 / 8)).isSome = true) := by decide

/-- 65023 and 65032 fail; 0 and 65024 do not. -/
theorem witness_FbCreateResult :
    (65023#24).toNat % 8 ≠ 0 ∧ (65032#24).toNat > 65024 ∧
    ¬((0#24).toNat % 8 ≠ 0 ∨ (0#24).toNat > 65024) ∧ ¬((65024#24).toNat % 8 ≠ 0 ∨ (65024#24).toNat > 65024) := by decide

theorem witness_FbSetBitResult :
    FbSound sized.alone.fb ∧ (16#24).toNat ≥ sized.alone.fb.cap.toNat ∧ ¬((15#24).toNat ≥ sized.alone.fb.cap.toNat) :=
  ⟨fbSound_sized, by decide, by decide⟩

theorem witness_FbReadResult :
    FbSound sized.alone.fb ∧ (2#24).toNat ≥ sized.alone.fb.cap.toNat / 8 ∧
    ¬((1#24).toNat ≥ sized.alone.fb.cap.toNat / 8) :=
  ⟨fbSound_sized, by decide, by decide⟩

theorem witness_AsBytesIsTheBuffer :
    FbSound sized.fb ∧ 0 ≤ sized.fb.cap.toNat / 8 ∧ 2 ≤ sized.fb.cap.toNat / 8 ∧
    sized.fb.asBytes 2 = .ok [0x01#8, 0x80#8] :=
  ⟨fbSound_sized, by decide, by decide, rfl⟩

/-- Bit 0 is 1 and bit 15 is 1 in the buffer [0x01, 0x80], and bit 14 is 0. -/
theorem witness_SetBitLaws :
    FbSound sized.fb ∧ 14 < sized.fb.cap.toNat ∧ 15 < sized.fb.cap.toNat ∧
    sized.fb.setBit 14 true = .ok (.ok, { sized.fb with bytes := [(0, 0x01#8), (1, 0xC0#8)] }) ∧
    bitAt sized.fb.bytes 14 = some false ∧ (14 : Nat) ≠ 15 :=
  ⟨fbSound_sized, by decide, by decide, rfl, by decide, by decide⟩

/-- InvalidSize, InvalidIndex and IllegalOp. -/
theorem witness_FailedRequestChangesNothing :
    (∃ t, exec (decodeFb 0x00000001#32) sized = .next t ∧ t.alone.code = 1#4) ∧
    (∃ t, exec (decodeFb 0x41000010#32) sized = .next t ∧ t.alone.code = 2#4) ∧
    (∃ t, exec (decodeFb 0x80000002#32) sized = .next t ∧ t.alone.code = 2#4) ∧
    (∃ t, exec (decodeFb 0xC0000000#32) sized = .next t ∧ t.alone.code = 7#4) :=
  ⟨⟨_, rfl, by decide⟩, ⟨_, rfl, by decide⟩, ⟨_, rfl, by decide⟩, ⟨_, rfl, by decide⟩⟩

theorem witness_FbRequestFrame :
    (∃ t, exec (decodeFb 0x00000010#32) sized = .next t) ∧ (∃ t, exec (decodeFb 0x41000009#32) sized = .next t) ∧
    FbSound sized.alone.fb :=
  ⟨⟨_, rfl⟩, ⟨_, rfl⟩, fbSound_sized⟩

theorem witness_ArithmeticRanges : 1 ≤ (1#8).toNat ∧ 1 ≤ (255#8).toNat := by decide

/-- XMAX = W = 8: X = W for the first law, pixel (7, 1) for the second. -/
theorem witness_SetpixLaws :
    BlockInv sized ∧ sized.status.ready = true ∧ sized.cfg.configured = true ∧
    (sized.xmax.toNat ≥ sized.cfg.w.toNat ∧ (8#8).toNat ≤ sized.cfg.w.toNat) ∧
    (sized.xmax.toNat = sized.cfg.w.toNat ∧ sized.cfg.w.toNat % 8 = 0 ∧ (7#8).toNat < sized.cfg.w.toNat ∧
      (1#8).toNat < sized.cfg.h.toNat) :=
  ⟨inv_sized, by decide, by decide, by decide, by decide⟩

/-- W = 8 and W = 4, idle and at the START of the XFER. -/
theorem witness_OverrunLaw :
    (BlockInv (fullAt 12#5 .start) ∧ (fullAt 12#5 .start).cfg.configured = true ∧
      (fullAt 12#5 .start).cfg.w.toNat % 8 = 0 ∧ (fullAt 12#5 .start).seq.phase = .start) ∧
    (BlockInv narrow ∧ narrow.cfg.configured = true ∧ narrow.cfg.w.toNat % 8 ≠ 0) :=
  ⟨⟨inv_fullAt _ _ (by decide) run_full_xfer_start, by decide, by decide, by decide⟩,
    ⟨inv_narrow, by decide, by decide⟩⟩

theorem witness_StartBeginsWithAWait :
    (fullAt 12#5 .start).seq.phase = .start ∧
    ¬(transferBytes 8#8 2#8 > (fullAt 12#5 .start).fb.cap.toNat / 8) ∧
    transferBytes 4#8 2#8 > narrow.fb.cap.toNat / 8 := by decide

/-- BUSY 0, BUSY 1 with CANCEL, BUSY 1 without. -/
theorem witness_WaitPolls :
    isUnit .writeRam ∧ isUnit .poff02 ∧
    ((lines false .none (fullAt 0#5 .wait)).seq.phase = .wait ∧ (lines false .none (fullAt 0#5 .wait)).port.busy = false) ∧
    ((lines true .none (fullAt 0#5 .wait)).port.busy = true ∧ (lines true .none (fullAt 0#5 .wait)).cancel = false) ∧
    (cancelled (lines true .none (fullAt 0#5 .wait))).cancel = true :=
  ⟨.inl rfl, .inr ⟨.poff02, rfl⟩, by decide, by decide, by decide⟩

/-- The WAITONLY in the middle of a flush and at the end of PWRON, held and let go. -/
theorem witness_WaitOnlyAdvances :
    (BlockInv (lines true .none (fullAt 9#5 .wait)) ∧ (lines true .none (fullAt 9#5 .wait)).moves = [] ∧
      (lines true .none (fullAt 9#5 .wait)).seq.phase = .wait ∧
      currentAction (lines true .none (fullAt 9#5 .wait)) = some .waitOnly ∧
      (lines true .none (fullAt 9#5 .wait)).port.busy = true ∧ (lines true .none (fullAt 9#5 .wait)).cancel = false) ∧
    (BlockInv (cancelled (lines true .none (ponAt 2#5 .wait))) ∧
      currentAction (cancelled (lines true .none (ponAt 2#5 .wait))) = some .waitOnly ∧
      (cancelled (lines true .none (ponAt 2#5 .wait))).cancel = true) :=
  ⟨⟨inv_lines _ _ (inv_fullAt _ _ (by decide) run_full_waitOnly), by decide, by decide, by decide, by decide, by decide⟩,
    ⟨inv_cancelled (inv_lines _ _ (inv_ponAt _ _ (by decide) run_pon_waitOnly)), by decide, by decide⟩⟩

/-- For InitUnitsSend, ModeAndPowerUnitsSend, AddressingUnitsSend and PowerOffUnitsSend: SEND, in both modes. -/
theorem witness_unitsSend :
    ((fullAt 0#5 .send).seq.phase = .send ∧ (fullAt 0#5 .send).seq.mode = .full) ∧
    ((partialAt 10#5 .send).seq.phase = .send ∧ (partialAt 10#5 .send).seq.mode = .partial_) ∧
    (poffAt 0#5 .send).seq.phase = .send := by decide

theorem witness_WriteRamSendsTheBuffer :
    FbSound (fullAt 12#5 .send).fb ∧ (fullAt 12#5 .send).seq.phase = .send ∧
    transferBytes (fullAt 12#5 .send).cfg.w (fullAt 12#5 .send).cfg.h = (fullAt 12#5 .send).fb.cap.toNat / 8 :=
  ⟨fbSound_sized, by decide, by decide⟩

/-- The first unit and the last, with each answer. -/
theorem witness_AnswerAdvancesOrEnds :
    isUnit .syncFF ∧
    (BlockInv (lines false .none (fullAt 0#5 .resp)) ∧ (lines false .none (fullAt 0#5 .resp)).port.resp = .none) ∧
    (BlockInv (lines false .ok (fullAt 15#5 .resp)) ∧ (lines false .ok (fullAt 15#5 .resp)).port.resp = .ok ∧
      (fullAt 15#5 .resp).seq.step.toNat + 1 = (fullAt 15#5 .resp).seq.acts.length) ∧
    (BlockInv (lines false .fail (fullAt 0#5 .resp)) ∧ (lines false .fail (fullAt 0#5 .resp)).port.resp = .fail) ∧
    (fullAt 0#5 .resp).seq.phase = .resp :=
  ⟨.inr ⟨.syncFF, rfl⟩, ⟨inv_lines _ _ (inv_fullAt _ _ (by decide) run_full_resp), by decide⟩,
    ⟨inv_lines _ _ (inv_fullAt _ _ (by decide) run_full_last_resp), by decide, by decide⟩,
    ⟨inv_lines _ _ (inv_fullAt _ _ (by decide) run_full_resp), by decide⟩, by decide⟩

theorem witness_SendPresentsTheCurrentAction :
    (BlockInv (fullAt 0#5 .send) ∧ (fullAt 0#5 .send).moves = [] ∧ (fullAt 0#5 .send).seq.phase = .send ∧
      currentAction (fullAt 0#5 .send) = some (.unit .init01 { cmd := 0x01#8, data := [0xA1#8] })) ∧
    (BlockInv (fullAt 12#5 .send) ∧ currentAction (fullAt 12#5 .send) = some .xfer) :=
  ⟨⟨inv_fullAt _ _ (by decide) run_full_send, by decide, by decide, by decide⟩,
    ⟨inv_fullAt _ _ (by decide) run_full_xfer_send, by decide⟩⟩

theorem witness_UnitFrame :
    isUnit .writeRam ∧ isUnit .lut ∧ (∃ t, exec .writeRam (fullAt 12#5 .send) = .next t) ∧
    ∃ t, exec .lut (partialAt 6#5 .send) = .next t :=
  ⟨.inl rfl, .inr ⟨.lut, rfl⟩, ⟨_, rfl⟩, ⟨_, rfl⟩⟩

/-- A unit is sent, an answer is recorded, and a poll records nothing. -/
theorem witness_OneUnitOutstanding :
    (BlockInv (fullAt 0#5 .send) ∧ (∀ rest, (fullAt 0#5 .send).moves ≠ .reset :: rest) ∧
      ∃ t, step (fullAt 0#5 .send) = .next t) ∧
    (BlockInv (lines false .fail (fullAt 0#5 .resp)) ∧ ∃ t, step (lines false .fail (fullAt 0#5 .resp)) = .next t) :=
  ⟨⟨inv_fullAt _ _ (by decide) run_full_send, by intro rest h; simp [fullAt, busyAt, sized, fresh, State.reset] at h, ⟨_, rfl⟩⟩,
    ⟨inv_lines _ _ (inv_fullAt _ _ (by decide) run_full_resp), ⟨_, rfl⟩⟩⟩

theorem witness_HoldsMayLastForEver :
    (BlockInv (lines true .none (fullAt 9#5 .wait)) ∧ (lines true .none (fullAt 9#5 .wait)).moves = [] ∧
      (lines true .none (fullAt 9#5 .wait)).seq.phase = .wait ∧ (lines true .none (fullAt 9#5 .wait)).port.busy = true ∧
      (lines true .none (fullAt 9#5 .wait)).cancel = false) ∧
    (BlockInv (fullAt 0#5 .resp) ∧ (fullAt 0#5 .resp).moves = [] ∧ (fullAt 0#5 .resp).seq.phase = .resp ∧
      (fullAt 0#5 .resp).port.resp = .none) :=
  ⟨⟨inv_lines _ _ (inv_fullAt _ _ (by decide) run_full_waitOnly), by decide, by decide, by decide, by decide⟩,
    ⟨inv_fullAt _ _ (by decide) run_full_resp, by decide, by decide, by decide⟩⟩

theorem witness_PowerOperationsRun : panelAlwaysOk (lines false .ok fresh) ∧ (lines false .ok fresh).status.ready = true :=
  ⟨by unfold panelAlwaysOk; decide, by decide⟩

/-- For FullFlushRuns and PartialFlushRuns. -/
theorem witness_flushRuns :
    BlockInv (lines false .ok sized) ∧ panelAlwaysOk (lines false .ok sized) ∧
    (lines false .ok sized).status.ready = true ∧ (lines false .ok sized).cfg.configured = true ∧
    (lines false .ok sized).cfg.w.toNat % 8 = 0 :=
  ⟨inv_lines _ _ inv_sized, by unfold panelAlwaysOk; decide, by decide, by decide, by decide⟩

theorem witness_UnalignedFlushOverruns :
    BlockInv (lines false .ok narrow) ∧ panelAlwaysOk (lines false .ok narrow) ∧
    (lines false .ok narrow).status.ready = true ∧ (lines false .ok narrow).cfg.configured = true ∧
    (lines false .ok narrow).cfg.w.toNat % 8 ≠ 0 :=
  ⟨inv_lines _ _ inv_narrow, by unfold panelAlwaysOk; decide, by decide, by decide, by decide⟩

/-- Sizes that succeed and fail, a pixel inside and one whose index is CAP, a byte inside and one beyond. -/
theorem witness_HostWordsActAsFbRequests :
    sized.status.ready = true ∧ sized.alone.fb = sized.fb ∧ sized.cfg.configured = true ∧
    (1 ≤ (8#8).toNat ∧ 1 ≤ (3#8).toNat ∧ (after (exec (.create 8#8 3#8) sized)).isSome ∧
      (after (exec (.create 3#8 3#8) sized)).isSome) ∧
    ((7#8).toNat ≤ sized.cfg.w.toNat ∧ (2#8).toNat ≤ sized.cfg.h.toNat ∧
      (after (exec (.setpix 7#8 1#8 false) sized)).isSome ∧ (after (exec (.setpix 0#8 2#8 true) sized)).isSome) ∧
    (after (exec (.readfb 1#13) sized)).isSome ∧ (after (exec (.readfb 2#13) sized)).isSome := by decide

/-- A harness's request in the middle of a flush leaves the block as it was (40_framebuffer.md R106). -/
theorem test_harness_is_apart :
    (after (step (given [.fbRequest 0x00000008#32] (fullAt 12#5 .wait)))).map
      (fun t => (t.fb, t.seq, t.status, t.alone.fb.cap)) =
      some ((fullAt 12#5 .wait).fb, (fullAt 12#5 .wait).seq, (fullAt 12#5 .wait).status, 8#16) := by decide

end Sys2Proof.Tests
end

section
/-! What one step can do: the equations of the shared operations, then one inversion per layer (a host word, a harness
request, SEQ's own step, a move), from which the invariants are derived. -/

namespace Sys2Proof.Machine

open Sys2Proof.Expected

/-! ### What `advance` leaves unchanged -/

/-- `advance` writes STATUS and SEQ only. -/
theorem advance_frame (s : State) :
    advance s = { s with status := (advance s).status, seq := (advance s).seq } := by
  rcases advance_cases s with ⟨n, e⟩ | e
  · rw [e]; rfl
  · rw [e]

@[simp] theorem advance_configured (s : State) : (advance s).status.configured = s.status.configured := by
  rcases advance_cases s with ⟨n, e⟩ | e
  · rw [e]; rfl
  · rw [e]

@[simp] theorem advance_cancel (s : State) : (advance s).cancel = s.cancel := by rw [advance_frame]

@[simp] theorem advance_cfg (s : State) : (advance s).cfg = s.cfg := by rw [advance_frame]

@[simp] theorem advance_fb (s : State) : (advance s).fb = s.fb := by rw [advance_frame]

@[simp] theorem advance_rom (s : State) : (advance s).rom = s.rom := by rw [advance_frame]

@[simp] theorem advance_xmax (s : State) : (advance s).xmax = s.xmax := by rw [advance_frame]

@[simp] theorem advance_port (s : State) : (advance s).port = s.port := by rw [advance_frame]

@[simp] theorem advance_trace (s : State) : (advance s).trace = s.trace := by rw [advance_frame]

@[simp] theorem advance_alone (s : State) : (advance s).alone = s.alone := by rw [advance_frame]

/-! ### Setting a bit of an FB -/

/-- All that FB_SET_BIT can answer on any FB: a refused index, or new bytes under the same CAP (40_framebuffer.md
R101). -/
theorem setBit_cases {fb fb' : Fb} {i : Nat} {on : Bool} {r : ResultCode} (h : fb.setBit i on = .ok (r, fb')) :
    (r = .invalidIndex ∧ fb' = fb) ∨ (r = .ok ∧ fb'.cap = fb.cap) := by
  unfold Fb.setBit at h
  split at h
  · simp only [Except.ok.injEq, Prod.mk.injEq] at h
    exact .inl ⟨h.1.symm, h.2.symm⟩
  · split at h
    · simp only [Except.ok.injEq, Prod.mk.injEq] at h
      obtain ⟨rfl, rfl⟩ := h
      exact .inr ⟨rfl, rfl⟩
    · simp at h

theorem FbSound.setBit {fb fb' : Fb} {i : Nat} {on : Bool} {r : ResultCode} (hs : FbSound fb)
    (h : fb.setBit i on = .ok (r, fb')) : FbSound fb' := by
  rcases Fb.setBit_sound fb i on hs with ⟨-, e⟩ | ⟨-, old, -, hk, e⟩ <;>
    rw [e] at h <;> simp only [Except.ok.injEq, Prod.mk.injEq] at h <;> obtain ⟨-, rfl⟩ := h
  · exact hs
  · exact FbSound.write fb _ _ hs hk

/-- The product of W and H fits CAP: the capacity that CREATE stores is W * H itself. -/
theorem toNat_ofNat_mul_of_le {w h : BitVec 8} (hmax : w.toNat * h.toNat ≤ Config.fbMaxBits) :
    (BitVec.ofNat 16 (w.toNat * h.toNat)).toNat = w.toNat * h.toNat := by
  have hb : Config.fbMaxBits = 65024 := rfl
  rw [BitVec.toNat_ofNat]
  exact Nat.mod_eq_of_lt (by omega)

/-! ### A host word -/

/-- All that a word written to CMD can do (41_panel_controller.md R120 to R128). -/
inductive WordEffect (i : Instr) (s : State) : State → Prop
  | lost (busy : s.status.ready = false) : WordEffect i s { s with status := s.status.lost }
  | ended (c : ResultCode) (ready : s.status.ready = true) : WordEffect i s (complete c (cleared s))
  | created (w h : BitVec 8) (ready : s.status.ready = true) (word : i = .create w h) (wpos : w ≠ 0#8)
      (hpos : h ≠ 0#8) (whole : w.toNat * h.toNat % 8 = 0) (fits : w.toNat * h.toNat ≤ Config.fbMaxBits) :
      WordEffect i s (complete .ok { cleared s with
        fb := { cap := BitVec.ofNat 16 (w.toNat * h.toNat), bytes := s.fb.bytes.clear (w.toNat * h.toNat / 8) }
        cfg := { configured := true, w := w, h := h }
        status := { (cleared s).status with configured := true } })
  | pixelSet (x y : BitVec 8) (on : Bool) (fb : Fb) (ready : s.status.ready = true) (word : i = .setpix x y on)
      (set : s.fb.setBit (pixelIndex s.xmax x y) on = .ok (.ok, fb)) :
      WordEffect i s (complete .ok { cleared s with fb := fb })
  | byteRead (v : Byte) (ready : s.status.ready = true) :
      WordEffect i s (complete .ok { cleared s with status := { (cleared s).status with rdata := v } })
  | launched (op : BitVec 3) (m : Mode) (acts : List Action) (ready : s.status.ready = true)
      (known : op = 3#3 ∨ op = 4#3 ∨ op = 5#3) (flush : op = 3#3 → s.cfg.configured = true)
      (built : acts = actsOf (started op m acts s)) : WordEffect i s (started op m acts (cleared s))

/-- A word's effect is the loss of the word while READY is 0, and the effect of its body while READY is 1. -/
theorem WordEffect.of_command {i : Instr} {body : State → Except Fault State} {s t : State}
    (hbody : s.status.ready = true → body (cleared s) = .ok t → WordEffect i s t) (h : command body s = .next t) :
    WordEffect i s t := by
  rcases command_next body s t h with ⟨hr, hb⟩ | ⟨hr, rfl⟩
  · exact hbody hr hb
  · exact .lost hr

theorem createBody_effect {w h : BitVec 8} {s t : State} (hr : s.status.ready = true)
    (hb : createBody w h (cleared s) = .ok t) : WordEffect (.create w h) s t := by
  unfold createBody at hb
  by_cases hz : w = 0#8 ∨ h = 0#8
  · rw [if_pos hz] at hb
    cases hb
    exact .ended _ hr
  · rw [if_neg hz] at hb
    rcases Fb.create_cases (cleared s).fb (w.toNat * h.toNat) with ⟨-, e⟩ | ⟨hwhole, hfits, e⟩ <;>
      rw [e] at hb <;> cases hb
    · exact .ended _ hr
    · exact .created w h hr rfl (fun hw => hz (.inl hw)) (fun hh => hz (.inr hh)) hwhole hfits

theorem setpixBody_effect {x y : BitVec 8} {on : Bool} {s t : State} (hr : s.status.ready = true)
    (hb : setpixBody x y on (cleared s) = .ok t) : WordEffect (.setpix x y on) s t := by
  unfold setpixBody at hb
  split at hb
  · cases hb
    exact .ended _ hr
  · split at hb
    · cases hb
      exact .ended _ hr
    · cases hset : (cleared s).fb.setBit (pixelIndex (cleared s).xmax x y) on with
      | error f => rw [hset] at hb; cases hb
      | ok answer =>
        obtain ⟨r, fb⟩ := answer
        rw [hset] at hb
        cases hb
        rcases setBit_cases hset with ⟨rfl, rfl⟩ | ⟨rfl, -⟩
        · exact .ended _ hr
        · exact .pixelSet x y on fb hr rfl hset

theorem readfbBody_effect {k : BitVec 13} {s t : State} (hr : s.status.ready = true)
    (hb : readfbBody k (cleared s) = .ok t) : WordEffect (.readfb k) s t := by
  unfold readfbBody at hb
  split at hb
  · cases hb
    exact .ended _ hr
  · cases hread : (cleared s).fb.readByte k.toNat with
    | error f => rw [hread] at hb; cases hb
    | ok answer =>
      rw [hread] at hb
      cases answer with
      | none => cases hb; exact .ended _ hr
      | some v => cases hb; exact .byteRead v hr

theorem flushBody_effect {i : Instr} {m : Mode} {s t : State} (hr : s.status.ready = true)
    (hb : flushBody m (cleared s) = .ok t) : WordEffect i s t := by
  unfold flushBody at hb
  split at hb
  · cases hb
    exact .ended _ hr
  · rename_i hconf
    cases hb
    exact .launched 3#3 m _ hr (.inl rfl) (fun _ => Bool.eq_true_of_not_eq_false hconf) rfl

/-- A host instruction does no more than `WordEffect` lists. -/
theorem exec_hostWord_effect {i : Instr} {s t : State} (hi : isHostWord i) (h : exec i s = .next t) :
    WordEffect i s t := by
  rcases hi with (⟨w, h', rfl⟩ | ⟨x, y, on, rfl⟩ | ⟨k, rfl⟩ | ⟨w, rfl⟩) | rfl | rfl | rfl | rfl
  · exact .of_command createBody_effect h
  · exact .of_command setpixBody_effect h
  · exact .of_command readfbBody_effect h
  · exact .of_command (body := fun s => .ok (complete .illegalOp s))
      (fun hr hb => by cases hb; exact .ended _ hr) h
  · exact .of_command flushBody_effect h
  · exact .of_command flushBody_effect h
  · exact .of_command (body := fun s => .ok (launch 4#3 (ponActs s.rom) s)) (fun hr hb => by
      cases hb
      exact .launched 4#3 s.seq.mode _ hr (.inr (.inl rfl)) (fun e => absurd e (by decide)) rfl) h
  · exact .of_command (body := fun s => .ok (launch 5#3 (poffActs s.rom) s)) (fun hr hb => by
      cases hb
      exact .launched 5#3 s.seq.mode _ hr (.inr (.inr rfl)) (fun e => absurd e (by decide)) rfl) h

/-- The host port carries host instructions only (30_encoding.md R71). -/
theorem isHostWord_decodeHost (w : Word) : isHostWord (decodeHost w) := by
  unfold decodeHost isHostWord isBufferWord
  split_ifs <;> simp

/-! ### A harness request -/

/-- The instructions of the FB request port (30_encoding.md R80, R82). -/
def isFbWord (i : Instr) : Prop :=
  (∃ c, i = .fbCreate c) ∨ (∃ k on, i = .fbSetBit k on) ∨ (∃ k, i = .fbRead k) ∨ ∃ w, i = .fbIllegal w

theorem isFbWord_decodeFb (w : Word) : isFbWord (decodeFb w) := by
  unfold decodeFb isFbWord
  split_ifs <;> simp

/-- All that a harness's request can do: the FB alone answers, and its buffer changes by FB_CREATE and FB_SET_BIT only
(40_framebuffer.md R100 to R102). -/
inductive RequestEffect (i : Instr) (s : State) : State → Prop
  | answered (c : ResultCode) (d : Option Byte) : RequestEffect i s (respond c d s.alone.fb s)
  | created (c : BitVec 24) (word : i = .fbCreate c) (whole : c.toNat % 8 = 0) (fits : c.toNat ≤ Config.fbMaxBits) :
      RequestEffect i s (respond .ok none
        { cap := BitVec.ofNat 16 c.toNat, bytes := s.alone.fb.bytes.clear (c.toNat / 8) } s)
  | bitSet (k : BitVec 24) (on : Bool) (fb : Fb) (word : i = .fbSetBit k on)
      (set : s.alone.fb.setBit k.toNat on = .ok (.ok, fb)) : RequestEffect i s (respond .ok none fb s)

/-- An FB request does no more than `RequestEffect` lists. -/
theorem exec_fbWord_effect {i : Instr} {s t : State} (hi : isFbWord i) (h : exec i s = .next t) :
    RequestEffect i s t := by
  rcases hi with ⟨c, rfl⟩ | ⟨k, on, rfl⟩ | ⟨k, rfl⟩ | ⟨w, rfl⟩
  · change execFbCreate c s = .next t at h
    unfold execFbCreate at h
    rcases Fb.create_cases s.alone.fb c.toNat with ⟨-, e⟩ | ⟨hwhole, hfits, e⟩ <;> rw [e] at h <;> cases h
    · exact .answered _ _
    · exact .created c rfl hwhole hfits
  · change execFbSetBit k on s = .next t at h
    unfold execFbSetBit at h
    cases hset : s.alone.fb.setBit k.toNat on with
    | error f => rw [hset] at h; cases h
    | ok answer =>
      obtain ⟨r, fb⟩ := answer
      rw [hset] at h
      cases h
      rcases setBit_cases hset with ⟨rfl, rfl⟩ | ⟨rfl, -⟩
      · exact .answered _ _
      · exact .bitSet k on fb rfl hset
  · change execFbRead k s = .next t at h
    unfold execFbRead at h
    cases hread : s.alone.fb.readByte k.toNat with
    | error f => rw [hread] at h; cases h
    | ok answer => rw [hread] at h; cases answer <;> cases h <;> exact .answered _ _
  · cases h
    exact .answered _ _

/-! ### SEQ's own step -/

/-- STATUS after a poll that goes on: as it was, or with WC set by a cancelled wait (42_command_protocol.md R152). -/
def PolledStatus (s : State) (st : Status) : Prop := st = s.status ∨ st = s.status.cutShort

/-- All that SEQ's own step can do, by PHASE and the kind of ACTS[STEP] (42_command_protocol.md R151 to R156). -/
inductive EngineEffect (s : State) : State → Prop
  | held : EngineEffect s s
  | waiting (phase : s.seq.phase = .start)
      (fits : currentAction s = some .xfer → transferBytes s.cfg.w s.cfg.h ≤ s.fb.cap.toNat / 8) :
      EngineEffect s (setPhase .wait s)
  | overran (phase : s.seq.phase = .start) : EngineEffect s (complete .bufferOverrun s)
  | polled (st : Status) (phase : s.seq.phase = .wait) (action : currentAction s ≠ some .waitOnly)
      (poll : PolledStatus s st) : EngineEffect s (setPhase .send { s with status := st })
  | waited (st : Status) (phase : s.seq.phase = .wait) (poll : PolledStatus s st) :
      EngineEffect s (advance { s with status := st })
  | sent (u : PanelUnit) (phase : s.seq.phase = .send) (action : currentAction s ≠ some .waitOnly) :
      EngineEffect s (sendUnit u s)
  | answeredOk (phase : s.seq.phase = .resp) : EngineEffect s (advance (answered .ok s))
  | answeredFail (phase : s.seq.phase = .resp) :
      EngineEffect s (complete .transportFailure (answered .fail s))

/-- A poll that goes on does so from the state it found, WC aside. -/
theorem EngineEffect.of_poll {s : State} (proceed : State → State)
    (h : ∀ st, PolledStatus s st → EngineEffect s (proceed { s with status := st })) :
    EngineEffect s (poll proceed s) := by
  rcases poll_cases proceed s with ⟨-, e⟩ | ⟨-, -, e⟩ | ⟨-, -, e⟩ <;> rw [e]
  · exact h s.status (.inl rfl)
  · exact h _ (.inr rfl)
  · exact .held

theorem EngineEffect.of_takeAnswer {s : State} (hp : s.seq.phase = .resp) : EngineEffect s (takeAnswer s) := by
  rcases takeAnswer_cases s with ⟨-, e⟩ | ⟨-, e⟩ | ⟨-, e⟩ <;> rw [e]
  · exact .held
  · exact .answeredOk hp
  · exact .answeredFail hp

theorem unitStep_effect {u : PanelUnit} {s t : State} (hw : currentAction s ≠ some .waitOnly)
    (hx : currentAction s ≠ some .xfer) (h : unitStep u s = .next t) : EngineEffect s t := by
  rcases unitStep_cases u s with ⟨-, e⟩ | ⟨hp, e⟩ | ⟨hp, e⟩ | ⟨hp, e⟩ | ⟨hp, e⟩ <;> rw [e] at h <;> cases h
  · exact .held
  · exact .waiting hp (fun hc => absurd hc hx)
  · exact .of_poll _ (fun st hst => .polled st hp hw hst)
  · exact .sent u hp hw
  · exact .of_takeAnswer hp

theorem xferStep_effect {c : Byte} {s t : State} (hw : currentAction s ≠ some .waitOnly)
    (h : xferStep c s = .next t) : EngineEffect s t := by
  unfold xferStep at h
  cases hp : s.seq.phase with
  | idle => rw [hp] at h; cases h; exact .held
  | start =>
    rw [hp] at h
    by_cases hfit : transferBytes s.cfg.w s.cfg.h > s.fb.cap.toNat / 8
    · simp only [if_pos hfit] at h; cases h; exact .overran hp
    · simp only [if_neg hfit] at h; cases h; exact .waiting hp (fun _ => Nat.le_of_not_gt hfit)
  | wait => rw [hp] at h; cases h; exact .of_poll _ (fun st hst => .polled st hp hw hst)
  | send =>
    rw [hp] at h
    cases hread : s.fb.asBytes (transferBytes s.cfg.w s.cfg.h) with
    | error f => simp only [hread] at h; cases h
    | ok d => simp only [hread] at h; cases h; exact .sent _ hp hw
  | resp => rw [hp] at h; cases h; exact .of_takeAnswer hp

theorem waitOnlyStep_effect {s : State} (hc : currentAction s = some .waitOnly) :
    EngineEffect s (waitOnlyStep s) := by
  unfold waitOnlyStep
  cases hp : s.seq.phase with
  | idle => exact .held
  | start => exact .waiting hp (fun hx => by simp [hc] at hx)
  | wait => exact .of_poll _ (fun st hst => .waited st hp hst)
  | send => exact .held
  | resp => exact .held

theorem sequencer_effect {s t : State} (h : sequencer s = .next t) : EngineEffect s t := by
  rcases sequencer_cases s with ⟨-, e⟩ | ⟨-, row, u, hc, e⟩ | ⟨-, hc, e⟩ | ⟨-, hc, e⟩ | ⟨-, -, e⟩ <;> rw [e] at h
  · cases h
    exact .held
  · rw [exec_rowInstr] at h
    exact unitStep_effect (by simp [hc]) (by simp [hc]) h
  · exact xferStep_effect (by simp [hc]) h
  · cases h
    exact waitOnlyStep_effect hc
  · cases h

/-! ### A move -/

/-- All that a move can do. -/
inductive MoveEffect (s : State) : Move → State → Prop
  | word (v : Word) {t : State} (effect : WordEffect (decodeHost v) s t) :
      MoveEffect s (.hostWrite { offset := 0, width := 4 } v) t
  | ctrl (v : Word) :
      MoveEffect s (.hostWrite { offset := 8, width := 4 } v) { s with cancel := v.getLsbD 0 }
  | ignored (a : Access) (v : Word) : MoveEffect s (.hostWrite a v) s
  | read (a : Access) : MoveEffect s (.hostRead a) { s with hostData := readValue a.offset s }
  | request (w : Word) {t : State} (effect : RequestEffect (decodeFb w) s t) : MoveEffect s (.fbRequest w) t
  | busy (b : Bool) : MoveEffect s (.panelBusy b) { s with port := { s.port with busy := b } }
  | resp (r : Resp) : MoveEffect s (.panelResp r) { s with port := { s.port with resp := r } }
  | seq {t : State} (effect : EngineEffect s t) : MoveEffect s .seq t
  | reset : MoveEffect s .reset (resetBlock s)

theorem aligned_iff (a : Access) : a.aligned = true ↔ a.width = 4 ∧ a.offset % 4 = 0 := by
  simp [Access.aligned]

theorem hostWrite_effect {a : Access} {v : Word} {s t : State} (h : hostWrite a v s = .next t) :
    MoveEffect s (.hostWrite a v) t := by
  obtain ⟨offset, width⟩ := a
  unfold hostWrite at h
  split at h
  · rename_i ha
    obtain ⟨hw, -⟩ := (aligned_iff _).mp ha
    change width = 4 at hw
    subst hw
    split at h
    · rename_i ho
      change offset = 0 at ho
      subst ho
      exact .word v (exec_hostWord_effect (isHostWord_decodeHost v) h)
    · split at h
      · rename_i ho
        change offset = 8 at ho
        subst ho
        cases h
        exact .ctrl v
      · cases h
        exact .ignored _ v
  · cases h

theorem hostRead_effect {a : Access} {s t : State} (h : hostRead a s = .next t) : MoveEffect s (.hostRead a) t := by
  unfold hostRead at h
  split at h <;> cases h
  exact .read a

/-- A move does no more than `MoveEffect` lists. -/
theorem perform_effect {m : Move} {s t : State} (h : perform m s = .next t) : MoveEffect s m t := by
  cases m with
  | hostWrite a v => exact hostWrite_effect h
  | hostRead a => exact hostRead_effect h
  | fbRequest w => exact .request w (exec_fbWord_effect (isFbWord_decodeFb w) h)
  | panelBusy b => cases h; exact .busy b
  | panelResp r => cases h; exact .resp r
  | seq => exact .seq (sequencer_effect h)
  | reset => cases h; exact .reset

/-! ### What each effect leaves unchanged -/

/-- No host word reaches what is not the block's to write: the parameters, CTRL, the port, the trace, the FB alone. -/
theorem WordEffect.frame {i : Instr} {s t : State} (e : WordEffect i s t) :
    t = { s with status := t.status, cfg := t.cfg, fb := t.fb, seq := t.seq } := by
  cases e <;> rfl

/-- A harness's request writes the FB alone only (40_framebuffer.md R106). -/
theorem RequestEffect.frame {i : Instr} {s t : State} (e : RequestEffect i s t) : t = { s with alone := t.alone } := by
  cases e <;> rfl

/-- SEQ's own step writes STATUS, SEQ, the port and the trace only. -/
theorem EngineEffect.frame {s t : State} (e : EngineEffect s t) :
    t = { s with status := t.status, seq := t.seq, port := t.port, trace := t.trace } := by
  cases e with
  | waited st phase poll => rw [advance_frame]
  | answeredOk phase => rw [advance_frame]; rfl
  | held => rfl
  | waiting phase fits => rfl
  | overran phase => rfl
  | polled st phase action poll => rfl
  | sent u phase action => rfl
  | answeredFail phase => rfl

/-- A move acts on the block (a word at CMD, SEQ's own step, a reset), or it writes only CANCEL, the panel's lines, the FB
alone and the word read. -/
theorem MoveEffect.block_or_outside {s t : State} {m : Move} (e : MoveEffect s m t) :
    (∃ v, m = .hostWrite { offset := 0, width := 4 } v ∧ WordEffect (decodeHost v) s t) ∨
    (m = .seq ∧ EngineEffect s t) ∨ (m = .reset ∧ t = resetBlock s) ∨
    t = { s with
      cancel := t.cancel
      alone := t.alone
      hostData := t.hostData
      port := { s.port with busy := t.port.busy, resp := t.port.resp } } := by
  cases e with
  | word v effect => exact .inl ⟨v, rfl, effect⟩
  | seq effect => exact .inr (.inl ⟨rfl, effect⟩)
  | reset => exact .inr (.inr (.inl ⟨rfl, rfl⟩))
  | request w effect =>
    rw [effect.frame]
    exact .inr (.inr (.inr rfl))
  | ctrl v => exact .inr (.inr (.inr rfl))
  | ignored a v => exact .inr (.inr (.inr rfl))
  | read a => exact .inr (.inr (.inr rfl))
  | busy b => exact .inr (.inr (.inr rfl))
  | resp r => exact .inr (.inr (.inr rfl))

/-! ### A step is one move -/

/-- The move that the next step makes: the first of the list, and SEQ's own step where the list is empty (log 2). -/
def upcoming (s : State) : Move := s.moves.headD .seq

/-- The state on which the next step makes its move: the move is off the list. -/
def taken (s : State) : State := { s with moves := s.moves.tail }

theorem upcoming_cons {s : State} {m : Move} {rest : List Move} (h : s.moves = m :: rest) : upcoming s = m := by
  simp [upcoming, h]

theorem taken_cons {s : State} {m : Move} {rest : List Move} (h : s.moves = m :: rest) :
    taken s = { s with moves := rest } := by
  simp [taken, h]

/-- A move other than SEQ's own step stands on the list. -/
theorem moves_eq_of_upcoming {s : State} {m : Move} (h : upcoming s = m) (hm : m ≠ .seq) :
    s.moves = m :: s.moves.tail := by
  unfold upcoming at h
  cases hs : s.moves with
  | nil => simp [hs] at h; exact absurd h.symm hm
  | cons n rest => simp [hs] at h; simp [h]

/-- Every step is one move, made on the state without it. -/
theorem step_eq_perform (s : State) : step s = perform (upcoming s) (taken s) := by
  rcases step_cases s with ⟨hs, e⟩ | ⟨m, rest, hs, e⟩
  · have htaken : taken s = s := by
      obtain ⟨⟩ := s
      simp_all [taken]
    rw [e, htaken]
    simp [upcoming, hs, perform]
  · rw [e, upcoming_cons hs, taken_cons hs]

theorem step_cons {s : State} {m : Move} {rest : List Move} (h : s.moves = m :: rest) :
    step s = perform m { s with moves := rest } := by
  rw [step_eq_perform, upcoming_cons h, taken_cons h]

/-- All that a step can do. -/
theorem step_effect {s t : State} (h : step s = .next t) : MoveEffect (taken s) (upcoming s) t :=
  perform_effect (step_eq_perform s ▸ h)

/-- An invariant that does not see the list of moves, and that every move keeps, is kept by every step. -/
theorem step_preserves {P : State → Prop} (hmoves : ∀ s, P s → P (taken s))
    (hmove : ∀ s m t, P s → MoveEffect s m t → P t) {s t : State} (hs : P s) (h : step s = .next t) : P t :=
  hmove _ _ _ (hmoves s hs) (step_effect h)

end Sys2Proof.Machine
end

section
/-! What a step runs, the state after reset, and the register accesses (10_state.md). -/

namespace Sys2Proof.Machine

open Sys2Proof.Expected

/-! ### A step runs the decoded instruction -/

/-- A write of CMD runs the word it decodes to. -/
theorem hostWrite_cmd (v : Word) (s : State) : hostWrite { offset := 0, width := 4 } v s = exec (decodeHost v) s := rfl

theorem aligned_word {offset : Nat} (h4 : offset % 4 = 0) :
    Access.aligned { offset := offset, width := 4 } = true :=
  (aligned_iff _).mpr ⟨rfl, h4⟩

/-- A write of an aligned offset other than CMD sets CANCEL at CTRL and does nothing elsewhere. -/
theorem hostWrite_register {offset : Nat} (h4 : offset % 4 = 0) (h0 : offset ≠ 0) (v : Word) (s : State) :
    hostWrite { offset := offset, width := 4 } v s =
      .next (if offset = 8 then { s with cancel := v.getLsbD 0 } else s) := by
  simp only [hostWrite, aligned_word h4, if_true, h0, if_false]
  split <;> rfl

theorem hostRead_register {offset : Nat} (h4 : offset % 4 = 0) (s : State) :
    hostRead { offset := offset, width := 4 } s = .next { s with hostData := readValue offset s } := by
  simp only [hostRead, aligned_word h4, if_true]

theorem sequencer_unit {s : State} {row : UnitRow} {u : PanelUnit} (hp : s.seq.phase ≠ .idle)
    (hc : currentAction s = some (.unit row u)) : sequencer s = exec (rowInstr row) s := by
  simp only [sequencer, hp, if_false, hc]

theorem sequencer_xfer {s : State} (hp : s.seq.phase ≠ .idle) (hc : currentAction s = some .xfer) :
    sequencer s = exec .writeRam s := by
  simp only [sequencer, hp, if_false, hc]

theorem step_nil {s : State} (h : s.moves = []) : step s = sequencer s := by
  simp only [step, stepMove, h]

/-- Settles O6: the move at the head of the list, or SEQ's own step, is exec of the decoded instruction. -/
theorem stepRunsTheInstruction : Obligations.StepRunsTheInstruction := by
  unfold Obligations.StepRunsTheInstruction
  refine ⟨fun s w rest i hm hd => ?_, fun s w rest i hm hd => ?_, fun s row u hp hc => ⟨fun hm => ?_, fun rest hm => ?_⟩,
    fun s hp hc => ⟨fun hm => ?_, fun rest hm => ?_⟩⟩
  · cases hd
    exact step_cons hm
  · cases hd
    exact step_cons hm
  · rw [step_nil hm]
    exact sequencer_unit hp hc
  · rw [step_cons hm]
    exact sequencer_unit (s := { s with moves := rest }) hp hc
  · rw [step_nil hm]
    exact sequencer_xfer hp hc
  · rw [step_cons hm]
    exact sequencer_xfer (s := { s with moves := rest }) hp hc

/-! ### Reset -/

/-- No byte of an FB without capacity can be read (10_state.md R37). -/
theorem readByte_of_cap_zero {fb : Fb} (h : fb.cap = 0#16) (k : Nat) : fb.readByte k = .ok none := by
  simp [Fb.readByte, h]

/-- Settles O8: each field stands in `State.reset`, and CAP 0 makes every byte unreadable. -/
theorem resetValues : Obligations.ResetValues :=
  ⟨by decide, rfl, rfl, rfl, rfl, readByte_of_cap_zero rfl, rfl, rfl, rfl, rfl⟩

/-- Settles O9: the step is `resetBlock` of the state without the reset move. -/
theorem resetAtAnyTime : Obligations.ResetAtAnyTime := by
  intro s rest hm
  refine ⟨resetBlock { s with moves := rest }, step_cons hm, ?_⟩
  simp only [resetBlock_status, resetBlock_cancel, resetBlock_cfg, resetBlock_fb, resetBlock_seq, resetBlock_rom,
    resetBlock_xmax, resetBlock_port, resetBlock_trace, resetBlock_alone, resetBlock_hostData, resetBlock_moves, true_and]
  exact ⟨by decide, rfl, readByte_of_cap_zero rfl, rfl, trivial⟩

/-! ### Registers -/

/-- Settles O26: the step is the write on the state without the move. -/
theorem registerWrites : Obligations.RegisterWrites := by
  intro s offset v rest h4 hm h0
  rw [step_cons hm]
  exact hostWrite_register h4 h0 v { s with moves := rest }

/-- Settles O27: CTRL reads as CANCEL with zeros above it. -/
theorem registerReads : Obligations.RegisterReads := by
  intro s offset rest h4 hm
  have hctrl : ctrlWord s.cancel = BitVec.zeroExtend 32 (BitVec.ofBool s.cancel) := by
    cases s.cancel <;> decide
  rw [step_cons hm, ← hctrl]
  exact hostRead_register h4 { s with moves := rest }

/-- The STATUS word as a number: each field at the weight of its lowest bit (10_state.md R24). -/
theorem toNat_statusWord (t : Status) : t.word.toNat =
    t.rdata.toNat * 65536 + t.code.toNat * 256 + t.cl.toNat * 8 + t.wc.toNat * 4 + t.configured.toNat * 2 +
      t.ready.toNat := by
  simp only [Status.word, toNat_append_add, BitVec.toNat_ofNat, BitVec.toNat_ofBool]
  omega

/-- A flag is the parity of its number. -/
theorem decide_toNat_mod_two (b : Bool) : decide (b.toNat % 2 = 1) = b := by cases b <;> rfl

/-- Settles O29: every field is a quotient and remainder of the word's number. -/
theorem statusWordLayout : Obligations.StatusWordLayout := by
  intro t
  have hrdata := t.rdata.isLt
  have hcode := t.code.isLt
  have hcl := t.cl.toNat_lt
  have hwc := t.wc.toNat_lt
  have hconfigured := t.configured.toNat_lt
  have hready := t.ready.toNat_lt
  have bit {i : Nat} {b : Bool} (h : t.word.toNat / 2 ^ i % 2 = b.toNat % 2) : t.word.getLsbD i = b := by
    rw [getLsbD_eq_div, h, decide_toNat_mod_two]
  have field {i l : Nat} {f : BitVec l} (h : t.word.toNat / 2 ^ i % 2 ^ l = f.toNat) : t.word.extractLsb' i l = f :=
    BitVec.eq_of_toNat_eq (by rw [toNat_extractLsb'_div, h])
  have reserved {i l : Nat} (h : t.word.toNat / 2 ^ i % 2 ^ l = 0) : t.word.extractLsb' i l = 0#l :=
    field (h.trans (by simp))
  have hword := toNat_statusWord t
  exact ⟨bit (by omega), bit (by omega), bit (by omega), bit (by omega), reserved (by omega), field (by omega),
    reserved (by omega), field (by omega), reserved (by omega)⟩

end Sys2Proof.Machine
end

section
/-! The invariants: the five of R35, the soundness of the two FBs, the read-only parameters, and the sequencer's own
part, each kept by every move; together they are `BlockInv`. -/

namespace Sys2Proof.Machine

open Sys2Proof.Expected

/-! ### The five invariants of R35 -/

/-- A state with the configuration and capacity of a state that meets R35 meets it when its READY agrees with its
PHASE. -/
theorem fiveInvariants_of_same_config {s t : State} (h : fiveInvariants s) (hcap : t.fb.cap = s.fb.cap)
    (hcfg : t.cfg = s.cfg) (hcopy : t.status.configured = s.status.configured)
    (hready : t.status.ready = true ↔ t.seq.phase = .idle) : fiveInvariants t := by
  obtain ⟨hwhole, hset, hunset, -, hconf⟩ := h
  refine ⟨?_, ?_, ?_, hready, ?_⟩
  · rwa [hcap]
  · rwa [hcap, hcfg]
  · rwa [hcap, hcfg]
  · rw [hcopy, hcfg, hconf]

theorem fiveInvariants_ready_idle {s : State} (h : fiveInvariants s) : s.status.ready = true ↔ s.seq.phase = .idle := by
  obtain ⟨-, -, -, hready, -⟩ := h
  exact hready

/-- While an operation runs READY is 0. -/
theorem not_ready_of_running {s : State} (h : fiveInvariants s) (hp : s.seq.phase ≠ .idle) : s.status.ready = false :=
  Bool.eq_false_iff.mpr (fun hr => hp ((fiveInvariants_ready_idle h).mp hr))

theorem fiveInvariants_complete {s u : State} (h : fiveInvariants s) (c : ResultCode) (hcap : u.fb.cap = s.fb.cap)
    (hcfg : u.cfg = s.cfg) (hcopy : u.status.configured = s.status.configured) : fiveInvariants (complete c u) :=
  fiveInvariants_of_same_config h hcap hcfg hcopy (by simp)

/-- `advance` of a running operation ends it with READY 1 or goes to START with READY still 0. -/
theorem advance_ready_idle {s : State} (h : s.status.ready = false) :
    (advance s).status.ready = true ↔ (advance s).seq.phase = .idle := by
  rcases advance_cases s with ⟨n, e⟩ | e <;> rw [e] <;> simp [h]

theorem fiveInvariants_reset : fiveInvariants State.reset := by
  unfold fiveInvariants
  decide

/-- CREATE's configuration: CAP is W * H, with W and H at least 1 (41_panel_controller.md R122). -/
theorem fiveInvariants_created {s : State} {w h : BitVec 8} {bytes : Memory} {st : Status} (wpos : w ≠ 0#8)
    (hpos : h ≠ 0#8) (whole : w.toNat * h.toNat % 8 = 0) (fits : w.toNat * h.toNat ≤ Config.fbMaxBits) :
    fiveInvariants (complete .ok { s with
      fb := { cap := BitVec.ofNat 16 (w.toNat * h.toNat), bytes := bytes }
      cfg := { configured := true, w := w, h := h }
      status := { st with configured := true } }) := by
  have hw : 1 ≤ w.toNat := Nat.one_le_iff_ne_zero.mpr (fun e => wpos (BitVec.eq_of_toNat_eq e))
  have hh : 1 ≤ h.toNat := Nat.one_le_iff_ne_zero.mpr (fun e => hpos (BitVec.eq_of_toNat_eq e))
  have hcap := toNat_ofNat_mul_of_le fits
  refine ⟨⟨?_, ?_⟩, fun _ => ⟨hcap, hw, hh⟩, fun e => absurd e (by simp), by simp, rfl⟩
  · exact (congrArg (· % 8) hcap).trans whole
  · exact hcap.trans_le fits

theorem WordEffect.keeps_five {i : Instr} {s t : State} (h : fiveInvariants s) (e : WordEffect i s t) :
    fiveInvariants t := by
  cases e with
  | lost busy => exact fiveInvariants_of_same_config h rfl rfl rfl (fiveInvariants_ready_idle h)
  | ended c ready => exact fiveInvariants_complete h c rfl rfl rfl
  | created w h ready word wpos hpos whole fits => exact fiveInvariants_created wpos hpos whole fits
  | pixelSet x y on fb ready word set =>
    rcases setBit_cases set with ⟨hr, -⟩ | ⟨-, hcap⟩
    · cases hr
    · exact fiveInvariants_complete h .ok hcap rfl rfl
  | byteRead v ready => exact fiveInvariants_complete h .ok rfl rfl rfl
  | launched op m acts ready known flush built =>
    exact fiveInvariants_of_same_config h rfl rfl rfl (by simp [started, cleared])

theorem PolledStatus.ready {s : State} {st : Status} (h : PolledStatus s st) : st.ready = s.status.ready := by
  rcases h with rfl | rfl <;> rfl

theorem PolledStatus.configured {s : State} {st : Status} (h : PolledStatus s st) :
    st.configured = s.status.configured := by
  rcases h with rfl | rfl <;> rfl

theorem PolledStatus.code {s : State} {st : Status} (h : PolledStatus s st) : st.code = s.status.code := by
  rcases h with rfl | rfl <;> rfl

theorem EngineEffect.keeps_five {s t : State} (h : fiveInvariants s) (e : EngineEffect s t) : fiveInvariants t := by
  cases e with
  | held => exact h
  | waiting phase fits =>
    have hr := not_ready_of_running h (by simp [phase])
    exact fiveInvariants_of_same_config h rfl rfl rfl (by simp [hr])
  | overran phase => exact fiveInvariants_complete h _ rfl rfl rfl
  | polled st phase action poll =>
    have hr := not_ready_of_running h (by simp [phase])
    exact fiveInvariants_of_same_config h rfl rfl poll.configured (by simp [poll.ready, hr])
  | waited st phase poll =>
    have hr := not_ready_of_running h (by simp [phase])
    exact fiveInvariants_of_same_config h (by simp) (by simp) (by simp [poll.configured])
      (advance_ready_idle (poll.ready.trans hr))
  | sent u phase action =>
    have hr := not_ready_of_running h (by simp [phase])
    exact fiveInvariants_of_same_config h rfl rfl rfl (by simp [hr])
  | answeredOk phase =>
    have hr := not_ready_of_running h (by simp [phase])
    exact fiveInvariants_of_same_config h (by simp) (by simp) (by simp) (advance_ready_idle hr)
  | answeredFail phase => exact fiveInvariants_complete h _ rfl rfl rfl

theorem MoveEffect.keeps_five {s t : State} {m : Move} (h : fiveInvariants s) (e : MoveEffect s m t) :
    fiveInvariants t := by
  rcases e.block_or_outside with ⟨v, -, effect⟩ | ⟨-, effect⟩ | ⟨-, rfl⟩ | houtside
  · exact effect.keeps_five h
  · exact effect.keeps_five h
  · exact fiveInvariants_reset
  · rw [houtside]
    exact h

/-- Settles O13: each effect of a step keeps the five invariants. -/
theorem stepKeepsFiveInvariants : Obligations.StepKeepsFiveInvariants := fun _ _ h hstep =>
  step_preserves (fun _ h => h) (fun _ _ _ h e => e.keeps_five h) h hstep

/-! ### The FBs and the parameters -/

theorem WordEffect.keeps_fbSound {i : Instr} {s t : State} (h : FbSound s.fb) (e : WordEffect i s t) :
    FbSound t.fb := by
  cases e with
  | created w h' ready word wpos hpos whole fits => exact FbSound.create s.fb _ h whole fits
  | pixelSet x y on fb ready word set => exact FbSound.setBit h set
  | lost busy => exact h
  | ended c ready => exact h
  | byteRead v ready => exact h
  | launched op m acts ready known flush built => exact h

theorem fbSound_reset : FbSound State.reset.fb := by constructor <;> decide

theorem MoveEffect.keeps_fbSound {s t : State} {m : Move} (h : FbSound s.fb) (e : MoveEffect s m t) :
    FbSound t.fb := by
  rcases e.block_or_outside with ⟨v, -, effect⟩ | ⟨-, effect⟩ | ⟨-, rfl⟩ | houtside
  · exact effect.keeps_fbSound h
  · rw [effect.frame]
    exact h
  · exact fbSound_reset
  · rw [houtside]
    exact h

theorem RequestEffect.keeps_alone {i : Instr} {s t : State} (h : FbSound s.alone.fb) (e : RequestEffect i s t) :
    FbSound t.alone.fb := by
  cases e with
  | answered c d => exact h
  | created c word whole fits => exact FbSound.create s.alone.fb _ h whole fits
  | bitSet k on fb word set => exact FbSound.setBit h set

/-- Only a harness's request changes the FB alone. -/
theorem MoveEffect.alone_eq {s t : State} {m : Move} (e : MoveEffect s m t) (hm : ∀ w, m ≠ .fbRequest w) :
    t.alone = s.alone := by
  cases e with
  | word v effect => rw [effect.frame]
  | request w effect => exact absurd rfl (hm w)
  | seq effect => rw [effect.frame]
  | reset => rfl
  | ctrl v => rfl
  | ignored a v => rfl
  | read a => rfl
  | busy b => rfl
  | resp r => rfl

theorem MoveEffect.keeps_alone {s t : State} {m : Move} (h : FbSound s.alone.fb) (e : MoveEffect s m t) :
    FbSound t.alone.fb := by
  by_cases hm : ∃ w, m = .fbRequest w
  · obtain ⟨w, rfl⟩ := hm
    cases e with
    | request w effect => exact effect.keeps_alone h
  · rw [e.alone_eq (fun w hw => hm ⟨w, hw⟩)]
    exact h

/-- No move changes the ROM or XMAX (10_state.md R33). -/
theorem MoveEffect.parameters {s t : State} {m : Move} (e : MoveEffect s m t) : t.rom = s.rom ∧ t.xmax = s.xmax := by
  rcases e.block_or_outside with ⟨v, -, effect⟩ | ⟨-, effect⟩ | ⟨-, rfl⟩ | houtside
  · rw [effect.frame]
    exact ⟨rfl, rfl⟩
  · rw [effect.frame]
    exact ⟨rfl, rfl⟩
  · exact ⟨rfl, rfl⟩
  · rw [houtside]
    exact ⟨rfl, rfl⟩

/-! ### A running operation -/

/-- A list has at most 18 actions, so that STEP never wraps (42_command_protocol.md R166). -/
theorem Running.length_le {s : State} (h : Running s) : s.seq.acts.length ≤ 18 := by
  have hflush (m : Mode) : (flushActs s.rom m s.cfg.w s.cfg.h).length ≤ 18 := by
    cases m <;> simp [flushActs, fullActs, partialActs, initActs, ponActs, ptrActs, windowActs, updateActs]
  rw [h.acts_built]
  rcases h.op_known with e | e | e <;> simp only [actsOf, e]
  · exact hflush _
  · simp [ponActs]
  · simp [poffActs]

/-- The list of a started operation is not empty. -/
theorem actsOf_length_pos {s : State} (h : s.seq.op = 3#3 ∨ s.seq.op = 4#3 ∨ s.seq.op = 5#3) :
    0 < (actsOf s).length := by
  have hflush (m : Mode) : 0 < (flushActs s.rom m s.cfg.w s.cfg.h).length := by
    cases m <;> simp [flushActs, fullActs, partialActs, initActs]
  rcases h with e | e | e <;> simp only [actsOf, e]
  · exact hflush _
  · simp [ponActs]
  · simp [poffActs]

/-- `advance` of a running operation: the end with OK after the last action, else START of the next one. -/
theorem Running.advance_or_end {s : State} (h : Running s) :
    advance s = if s.seq.step.toNat + 1 = s.seq.acts.length then complete .ok s
      else { s with seq := { s.seq with step := s.seq.step + 1#5, phase := .start } } := by
  have hstep := h.step_in_acts
  have hlen := h.length_le
  exact Sys2Proof.Machine.advance_eq s (by omega)

/-- STEP + 1 does not wrap while an operation runs. -/
theorem Running.step_succ {s : State} (h : Running s) : (s.seq.step + 1#5).toNat = s.seq.step.toNat + 1 := by
  have hstep := h.step_in_acts
  have hlen := h.length_le
  rw [BitVec.toNat_add, BitVec.toNat_ofNat]
  omega

/-- An operation that goes to another PHASE of the same action keeps running, if that PHASE is one of the action's. -/
theorem Running.of_setPhase {s : State} (h : Running s) (p : Phase)
    (hwait : p = .send ∨ p = .resp → currentAction s ≠ some .waitOnly)
    (hfits : p ≠ .start → currentAction s = some .xfer → transferBytes s.cfg.w s.cfg.h ≤ s.fb.cap.toNat / 8) :
    Running (setPhase p s) where
  op_known := h.op_known
  acts_built := h.acts_built
  step_in_acts := h.step_in_acts
  flush_configured := h.flush_configured
  wait_only := hwait
  transfer_fits := hfits

/-- An operation that goes to the START of its next action keeps running. -/
theorem Running.next_action {s : State} (h : Running s) (hlast : s.seq.step.toNat + 1 ≠ s.seq.acts.length) :
    Running { s with seq := { s.seq with step := s.seq.step + 1#5, phase := .start } } where
  op_known := h.op_known
  acts_built := h.acts_built
  step_in_acts := by
    have hstep := h.step_in_acts
    simp only [h.step_succ]
    omega
  flush_configured := h.flush_configured
  wait_only := by simp
  transfer_fits := by simp

/-- An operation that has just started runs. -/
theorem Running.of_started {s : State} {op : BitVec 3} {m : Mode} {acts : List Action}
    (known : op = 3#3 ∨ op = 4#3 ∨ op = 5#3) (flush : op = 3#3 → s.cfg.configured = true)
    (built : acts = actsOf (started op m acts s)) : Running (started op m acts s) where
  op_known := known
  acts_built := built
  step_in_acts := by
    have hpos := actsOf_length_pos (s := started op m acts s) known
    rw [← built] at hpos
    exact hpos
  flush_configured := flush
  wait_only := by simp [started]
  transfer_fits := by simp [started]

/-! ### The sequencer's part of the invariant -/

/-- What `BlockInv` says of REQ, CODE and SEQ. -/
structure EngineSound (s : State) : Prop where
  req_resp : s.port.req = true ↔ s.seq.phase = .resp
  code_known : s.status.code.toNat ≤ 7
  code_running : s.status.ready = false → s.status.code = 0#4
  idle_clear : s.seq.phase = .idle → s.seq.op = 0#3 ∧ s.seq.step = 0#5 ∧ s.seq.acts = []
  running : s.seq.phase ≠ .idle → Running s

/-- `BlockInv` by its parts. -/
theorem blockInv_iff (s : State) : BlockInv s ↔
    fiveInvariants s ∧ FbSound s.fb ∧ EngineSound s ∧ 1 ≤ s.xmax.toNat ∧ s.rom.wf = true ∧ FbSound s.alone.fb := by
  constructor
  · intro h
    refine ⟨⟨⟨h.fb.whole_bytes, h.fb.within⟩, fun hc => ?_, fun hc => ?_, h.ready_idle, h.configured_copy⟩, h.fb,
      ⟨h.req_resp, h.code_known, h.code_running, h.idle_clear, h.running⟩, h.xmax_range, h.rom_wf, h.alone⟩
    · have hcap := h.cap_agrees
      have hdims := h.dims
      rw [CapAgrees, if_pos hc] at hcap
      rw [if_pos hc] at hdims
      exact ⟨hcap, hdims⟩
    · have hcap := h.cap_agrees
      have hdims := h.dims
      rw [CapAgrees, if_neg (by simp [hc])] at hcap
      rw [if_neg (by simp [hc])] at hdims
      exact ⟨hcap, hdims⟩
  · rintro ⟨⟨-, hset, hunset, hready, hcopy⟩, hfb, hengine, hxmax, hrom, halone⟩
    refine ⟨hfb, hready, hcopy, ?_, ?_, hengine.req_resp, hengine.code_known, hengine.code_running, hengine.idle_clear,
      hengine.running, hxmax, hrom, halone⟩
    · unfold CapAgrees
      split
      · next hc => exact (hset hc).1
      · next hc => exact (hunset (Bool.eq_false_iff.mpr hc)).1
    · split
      · next hc => exact (hset hc).2
      · next hc => exact (hunset (Bool.eq_false_iff.mpr hc)).2

theorem BlockInv.five {s : State} (h : BlockInv s) : fiveInvariants s := ((blockInv_iff s).mp h).1

theorem BlockInv.engine {s : State} (h : BlockInv s) : EngineSound s := ((blockInv_iff s).mp h).2.2.1

/-- The list of moves is not the block's. -/
theorem BlockInv.taken {s : State} (h : BlockInv s) : BlockInv (taken s) :=
  { h with running := fun hp => { h.running hp with } }

/-- Only the RESP phase has REQ at 1. -/
theorem EngineSound.req_eq_false {s : State} (h : EngineSound s) (hp : s.seq.phase ≠ .resp) : s.port.req = false :=
  Bool.eq_false_iff.mpr (fun hr => hp (h.req_resp.mp hr))

theorem ResultCode.toNat_bits_le (c : ResultCode) : c.bits.toNat ≤ 7 := by cases c <;> decide

/-- Every operation ends in a sound idle sequencer, if no unit is outstanding. -/
theorem EngineSound.of_complete {s : State} (c : ResultCode) (hreq : s.port.req = false) : EngineSound (complete c s) where
  req_resp := by simp [hreq]
  code_known := ResultCode.toNat_bits_le c
  code_running := fun hr => nomatch hr
  idle_clear := fun _ => ⟨rfl, rfl, rfl⟩
  running := fun hp => absurd rfl hp

/-- A running operation with CODE 0 and REQ by its PHASE is sound. -/
theorem EngineSound.of_running {s : State} (h : Running s) (hp : s.seq.phase ≠ .idle) (hcode : s.status.code = 0#4)
    (hreq : s.port.req = true ↔ s.seq.phase = .resp) : EngineSound s where
  req_resp := hreq
  code_known := by simp [hcode]
  code_running := fun _ => hcode
  idle_clear := fun hi => absurd hi hp
  running := fun _ => h

/-- `advance` of a running operation that has no unit outstanding. -/
theorem EngineSound.of_advance {s : State} (h : Running s) (hcode : s.status.code = 0#4) (hreq : s.port.req = false) :
    EngineSound (advance s) := by
  rw [h.advance_or_end]
  split
  · exact .of_complete .ok hreq
  · next hlast => exact .of_running (h.next_action hlast) (by simp) hcode (by simp [hreq])

/-- CODE is 0 while an operation runs (10_state.md R24). -/
theorem BlockInv.code_eq_zero {s : State} (h : BlockInv s) (hp : s.seq.phase ≠ .idle) : s.status.code = 0#4 :=
  h.code_running (not_ready_of_running h.five hp)

theorem WordEffect.keeps_engine {i : Instr} {s t : State} (h : BlockInv s) (e : WordEffect i s t) :
    EngineSound t := by
  have hreq (ready : s.status.ready = true) : s.port.req = false :=
    h.engine.req_eq_false (by simp [h.ready_idle.mp ready])
  cases e with
  | lost busy =>
    exact { h.engine with running := fun hp => { h.running hp with } }
  | ended c ready => exact .of_complete c (hreq ready)
  | created w h' ready word wpos hpos whole fits => exact .of_complete .ok (hreq ready)
  | pixelSet x y on fb ready word set => exact .of_complete .ok (hreq ready)
  | byteRead v ready => exact .of_complete .ok (hreq ready)
  | launched op m acts ready known flush built =>
    exact .of_running (Running.of_started (s := cleared s) known flush built) (by simp [started]) rfl
      (by simp [started, cleared, hreq ready])

theorem EngineEffect.keeps_engine {s t : State} (h : BlockInv s) (e : EngineEffect s t) : EngineSound t := by
  cases e with
  | held => exact h.engine
  | waiting phase fits =>
    have hp : s.seq.phase ≠ .idle := by simp [phase]
    exact .of_running ((h.running hp).of_setPhase .wait (by simp) (fun _ => fits)) (by simp) (h.code_eq_zero hp)
      (by simp [h.engine.req_eq_false (by simp [phase] : s.seq.phase ≠ .resp)])
  | overran phase => exact .of_complete _ (h.engine.req_eq_false (by simp [phase]))
  | polled st phase action poll =>
    have hp : s.seq.phase ≠ .idle := by simp [phase]
    have hrun : Running { s with status := st } := { h.running hp with }
    exact .of_running (hrun.of_setPhase .send (fun _ => action) (fun _ => (h.running hp).transfer_fits (by simp [phase])))
      (by simp) (poll.code.trans (h.code_eq_zero hp))
      (by simp [h.engine.req_eq_false (by simp [phase] : s.seq.phase ≠ .resp)])
  | waited st phase poll =>
    have hp : s.seq.phase ≠ .idle := by simp [phase]
    have hrun : Running { s with status := st } := { h.running hp with }
    exact .of_advance hrun (poll.code.trans (h.code_eq_zero hp)) (h.engine.req_eq_false (by simp [phase]))
  | sent u phase action =>
    have hp : s.seq.phase ≠ .idle := by simp [phase]
    have hrun : Running (setPhase .resp s) :=
      (h.running hp).of_setPhase .resp (fun _ => action) (fun _ => (h.running hp).transfer_fits (by simp [phase]))
    exact .of_running { hrun with } (by simp) (h.code_eq_zero hp) (by simp)
  | answeredOk phase =>
    have hp : s.seq.phase ≠ .idle := by simp [phase]
    have hrun : Running (answered .ok s) := { h.running hp with }
    exact .of_advance hrun (h.code_eq_zero hp) rfl
  | answeredFail phase => exact .of_complete _ rfl

theorem EngineSound.of_reset (s : State) : EngineSound (resetBlock s) where
  req_resp := by simp [State.reset]
  code_known := by simp [State.reset]
  code_running := fun _ => rfl
  idle_clear := fun _ => ⟨rfl, rfl, rfl⟩
  running := fun hp => absurd rfl hp

theorem MoveEffect.keeps_engine {s t : State} {m : Move} (h : BlockInv s) (e : MoveEffect s m t) :
    EngineSound t := by
  rcases e.block_or_outside with ⟨v, -, effect⟩ | ⟨-, effect⟩ | ⟨-, rfl⟩ | houtside
  · exact effect.keeps_engine h
  · exact effect.keeps_engine h
  · exact .of_reset s
  · rw [houtside]
    exact { h.engine with running := fun hp => { h.running hp with } }

theorem MoveEffect.keeps_inv {s t : State} {m : Move} (h : BlockInv s) (e : MoveEffect s m t) : BlockInv t := by
  obtain ⟨hrom, hxmax⟩ := e.parameters
  exact (blockInv_iff t).mpr ⟨e.keeps_five h.five, e.keeps_fbSound h.fb, e.keeps_engine h, hxmax ▸ h.xmax_range,
    hrom ▸ h.rom_wf, e.keeps_alone h.alone⟩

/-- Settles O12: each part of `BlockInv` is kept by each effect of a step. -/
theorem stepKeepsInv : Obligations.StepKeepsInv := fun _ _ h hstep =>
  step_preserves (fun _ h => h.taken) (fun _ _ _ h e => e.keeps_inv h) h hstep

/-! ### The state after reset -/

theorem xmax_pos : 1 ≤ Config.xmax.toNat := by
  have h := Config.xmaxLessOne.isLt
  rw [Config.xmax, BitVec.toNat_ofNat]
  omega

theorem rom_wf : Config.rom.wf = true := by
  simp [Rom.wf, Config.rom]

/-- Settles O11. -/
theorem resetIsSound : Obligations.ResetIsSound :=
  ⟨(blockInv_iff _).mpr
    ⟨fiveInvariants_reset, fbSound_reset, EngineSound.of_reset State.reset, xmax_pos, rom_wf, fbSound_reset⟩,
    fiveInvariants_reset⟩

end Sys2Proof.Machine
end

section
/-! Progress, and what a step leaves unchanged: no fault is reachable, a running operation is constant, the named writers,
and one unit outstanding. -/

namespace Sys2Proof.Machine

open Sys2Proof.Expected

/-! ### Progress -/

theorem command_progress {body : State → Except Fault State} {s : State} (h : ∃ t, body (cleared s) = .ok t) :
    ∃ t, command body s = .next t := by
  obtain ⟨t, ht⟩ := h
  cases hr : s.status.ready with
  | false => exact ⟨_, command_busy body s hr⟩
  | true =>
    refine ⟨t, (command_ready body s hr).trans ?_⟩
    change outcome (body (cleared s)) = .next t
    rw [ht]
    rfl

theorem createBody_progress (w h : BitVec 8) (s : State) : ∃ t, createBody w h s = .ok t := by
  unfold createBody
  split
  · exact ⟨_, rfl⟩
  · rcases Fb.create_cases s.fb (w.toNat * h.toNat) with ⟨-, e⟩ | ⟨-, -, e⟩ <;> rw [e] <;> exact ⟨_, rfl⟩

theorem setpixBody_progress {s : State} (hs : FbSound s.fb) (x y : BitVec 8) (on : Bool) :
    ∃ t, setpixBody x y on s = .ok t := by
  unfold setpixBody
  split
  · exact ⟨_, rfl⟩
  · split
    · exact ⟨_, rfl⟩
    · rcases Fb.setBit_sound s.fb (pixelIndex s.xmax x y) on hs with ⟨-, e⟩ | ⟨-, old, -, -, e⟩ <;> rw [e] <;>
        exact ⟨_, rfl⟩

theorem readfbBody_progress {s : State} (hs : FbSound s.fb) (k : BitVec 13) : ∃ t, readfbBody k s = .ok t := by
  unfold readfbBody
  split
  · exact ⟨_, rfl⟩
  · rcases Fb.readByte_sound s.fb k.toNat hs with ⟨-, e⟩ | ⟨-, v, -, e⟩ <;> rw [e] <;> exact ⟨_, rfl⟩

theorem flushBody_progress (m : Mode) (s : State) : ∃ t, flushBody m s = .ok t := by
  unfold flushBody
  split <;> exact ⟨_, rfl⟩

/-- A host instruction has a next state where the FB is sound. -/
theorem exec_hostWord_progress {i : Instr} {s : State} (hi : isHostWord i) (hs : FbSound s.fb) :
    ∃ t, exec i s = .next t := by
  rcases hi with (⟨w, h, rfl⟩ | ⟨x, y, on, rfl⟩ | ⟨k, rfl⟩ | ⟨w, rfl⟩) | rfl | rfl | rfl | rfl
  · exact command_progress (createBody_progress w h _)
  · exact command_progress (setpixBody_progress (s := cleared s) hs x y on)
  · exact command_progress (readfbBody_progress (s := cleared s) hs k)
  · exact command_progress (body := fun s => .ok (complete .illegalOp s)) ⟨_, rfl⟩
  · exact command_progress (flushBody_progress .full _)
  · exact command_progress (flushBody_progress .partial_ _)
  · exact command_progress (body := fun s => .ok (launch 4#3 (ponActs s.rom) s)) ⟨_, rfl⟩
  · exact command_progress (body := fun s => .ok (launch 5#3 (poffActs s.rom) s)) ⟨_, rfl⟩

/-- A harness's request has a next state where the FB alone is sound. -/
theorem exec_fbWord_progress {i : Instr} {s : State} (hi : isFbWord i) (hs : FbSound s.alone.fb) :
    ∃ t, exec i s = .next t := by
  rcases hi with ⟨c, rfl⟩ | ⟨k, on, rfl⟩ | ⟨k, rfl⟩ | ⟨w, rfl⟩
  · exact ⟨_, rfl⟩
  · change ∃ t, execFbSetBit k on s = .next t
    unfold execFbSetBit
    rcases Fb.setBit_sound s.alone.fb k.toNat on hs with ⟨-, e⟩ | ⟨-, old, -, -, e⟩ <;> rw [e] <;> exact ⟨_, rfl⟩
  · change ∃ t, execFbRead k s = .next t
    unfold execFbRead
    rcases Fb.readByte_sound s.alone.fb k.toNat hs with ⟨-, e⟩ | ⟨-, v, -, e⟩ <;> rw [e] <;> exact ⟨_, rfl⟩
  · exact ⟨_, rfl⟩

theorem unitStep_progress (u : PanelUnit) (s : State) : ∃ t, unitStep u s = .next t := by
  rcases unitStep_cases u s with ⟨-, e⟩ | ⟨-, e⟩ | ⟨-, e⟩ | ⟨-, e⟩ | ⟨-, e⟩ <;> exact ⟨_, e⟩

theorem xferStep_progress {s : State} (hs : FbSound s.fb) (c : Byte) : ∃ t, xferStep c s = .next t := by
  obtain ⟨bs, hread, -, -⟩ := Fb.asBytes_sound s.fb (transferBytes s.cfg.w s.cfg.h) hs
  unfold xferStep
  cases s.seq.phase with
  | start => dsimp only; split <;> exact ⟨_, rfl⟩
  | send => simp only [hread]; exact ⟨_, rfl⟩
  | idle => exact ⟨_, rfl⟩
  | wait => exact ⟨_, rfl⟩
  | resp => exact ⟨_, rfl⟩

/-- A running operation always has a current action (10_state.md R29). -/
theorem Running.currentAction_ne_none {s : State} (h : Running s) : currentAction s ≠ none := by
  simp [currentAction, h.step_in_acts]

theorem sequencer_progress {s : State} (h : BlockInv s) : ∃ t, sequencer s = .next t := by
  rcases sequencer_cases s with ⟨-, e⟩ | ⟨-, row, u, -, e⟩ | ⟨-, -, e⟩ | ⟨-, -, e⟩ | ⟨hp, hc, -⟩
  · exact ⟨_, e⟩
  · rw [e, exec_rowInstr]
    exact unitStep_progress _ s
  · rw [e]
    exact xferStep_progress h.fb _
  · exact ⟨_, e⟩
  · exact absurd hc (h.running hp).currentAction_ne_none

theorem hostWrite_progress {s : State} (h : BlockInv s) {a : Access} (ha : a.aligned = true) (v : Word) :
    ∃ t, hostWrite a v s = .next t := by
  rw [hostWrite, if_pos ha]
  split
  · exact exec_hostWord_progress (isHostWord_decodeHost v) h.fb
  · split <;> exact ⟨_, rfl⟩

/-- A sound state makes every move that is no host access of a form without a meaning. -/
theorem perform_progress {s : State} (h : BlockInv s) {m : Move} (hwrite : ∀ a v, m = .hostWrite a v → a.aligned = true)
    (hread : ∀ a, m = .hostRead a → a.aligned = true) : ∃ t, perform m s = .next t := by
  cases m with
  | hostWrite a v => exact hostWrite_progress h (hwrite a v rfl) v
  | hostRead a => exact ⟨_, if_pos (hread a rfl)⟩
  | fbRequest w => exact exec_fbWord_progress (isFbWord_decodeFb w) h.alone
  | seq => exact sequencer_progress h
  | panelBusy b => exact ⟨_, rfl⟩
  | panelResp r => exact ⟨_, rfl⟩
  | reset => exact ⟨_, rfl⟩

/-- Settles O14: a sound state makes its next move. -/
theorem soundStatesStep : Obligations.SoundStatesStep := by
  intro s h haligned
  rw [step_eq_perform]
  refine perform_progress h.taken (fun a v hm => ?_) (fun a hm => ?_)
  · exact (haligned a s.moves.tail).1 v (moves_eq_of_upcoming hm (by simp))
  · exact (haligned a s.moves.tail).2 (moves_eq_of_upcoming hm (by simp))

/-! ### A running operation is constant -/

/-- The operation that `t` runs is the one of `s`, at the same action or the next one. -/
structure SameOperation (s t : State) : Prop where
  acts : t.seq.acts = s.seq.acts
  op : t.seq.op = s.seq.op
  mode : t.seq.mode = s.seq.mode
  cfg : t.cfg = s.cfg
  fb : t.fb = s.fb
  step : t.seq.step.toNat = s.seq.step.toNat ∨ t.seq.step.toNat = s.seq.step.toNat + 1

/-- `advance` ends the operation or goes on with it. -/
theorem Running.advance_sameOperation {s : State} (h : Running s) (hrun : (advance s).seq.phase ≠ .idle) :
    SameOperation s (advance s) := by
  rw [h.advance_or_end] at hrun ⊢
  split at hrun
  · exact absurd rfl hrun
  · next hlast =>
    rw [if_neg hlast]
    exact ⟨rfl, rfl, rfl, rfl, rfl, .inr h.step_succ⟩

theorem EngineEffect.sameOperation {s t : State} (h : Running s) (e : EngineEffect s t)
    (hrun : t.seq.phase ≠ .idle) : SameOperation s t := by
  cases e with
  | waited st phase poll =>
    have hst : Running { s with status := st } := { h with }
    exact { hst.advance_sameOperation hrun with }
  | answeredOk phase =>
    have hok : Running (answered .ok s) := { h with }
    exact { hok.advance_sameOperation hrun with }
  | overran phase => exact absurd rfl hrun
  | answeredFail phase => exact absurd rfl hrun
  | held => exact ⟨rfl, rfl, rfl, rfl, rfl, .inl rfl⟩
  | waiting phase fits => exact ⟨rfl, rfl, rfl, rfl, rfl, .inl rfl⟩
  | polled st phase action poll => exact ⟨rfl, rfl, rfl, rfl, rfl, .inl rfl⟩
  | sent u phase action => exact ⟨rfl, rfl, rfl, rfl, rfl, .inl rfl⟩

/-- While READY is 0 a word is lost, whatever it is (41_panel_controller.md R121). -/
theorem WordEffect.eq_lost {i : Instr} {s t : State} (e : WordEffect i s t) (busy : s.status.ready = false) :
    t = { s with status := s.status.lost } := by
  cases e <;> simp_all

theorem MoveEffect.sameOperation {s t : State} {m : Move} (h : BlockInv s) (hp : s.seq.phase ≠ .idle)
    (e : MoveEffect s m t) (hrun : t.seq.phase ≠ .idle) : SameOperation s t := by
  rcases e.block_or_outside with ⟨v, -, effect⟩ | ⟨-, effect⟩ | ⟨-, rfl⟩ | houtside
  · rw [effect.eq_lost (not_ready_of_running h.five hp)]
    exact ⟨rfl, rfl, rfl, rfl, rfl, .inl rfl⟩
  · exact effect.sameOperation (h.running hp) hrun
  · exact absurd rfl hrun
  · rw [houtside]
    exact ⟨rfl, rfl, rfl, rfl, rfl, .inl rfl⟩

/-- Settles O15: a word is lost while READY is 0, and SEQ's own step goes on or ends the operation. -/
theorem operationIsConstant : Obligations.OperationIsConstant := by
  intro s t h hp hstep hrun
  obtain ⟨hacts, hop, hmode, hcfg, hfb, hstep'⟩ := (step_effect hstep).sameOperation h.taken hp hrun
  exact ⟨hacts, hop, hmode, hcfg, hfb, hstep'⟩

/-! ### The named writers -/

theorem WordEffect.create_of_cfg_ne {i : Instr} {s t : State} (e : WordEffect i s t) (h : t.cfg ≠ s.cfg) :
    ∃ w h, i = .create w h := by
  cases e with
  | created w h' ready word wpos hpos whole fits => exact ⟨w, h', word⟩
  | lost busy => exact absurd rfl h
  | ended c ready => exact absurd rfl h
  | pixelSet x y on fb ready word set => exact absurd rfl h
  | byteRead v ready => exact absurd rfl h
  | launched op m acts ready known flush built => exact absurd rfl h

theorem WordEffect.create_or_setpix_of_fb_ne {i : Instr} {s t : State} (e : WordEffect i s t) (h : t.fb ≠ s.fb) :
    (∃ w h, i = .create w h) ∨ ∃ x y on, i = .setpix x y on := by
  cases e with
  | created w h' ready word wpos hpos whole fits => exact .inl ⟨w, h', word⟩
  | pixelSet x y on fb ready word set => exact .inr ⟨x, y, on, word⟩
  | lost busy => exact absurd rfl h
  | ended c ready => exact absurd rfl h
  | byteRead v ready => exact absurd rfl h
  | launched op m acts ready known flush built => exact absurd rfl h

theorem RequestEffect.create_or_setBit_of_fb_ne {i : Instr} {s t : State} (e : RequestEffect i s t)
    (h : t.alone.fb ≠ s.alone.fb) : (∃ c, i = .fbCreate c) ∨ ∃ k on, i = .fbSetBit k on := by
  cases e with
  | answered c d => exact absurd rfl h
  | created c word whole fits => exact .inl ⟨c, word⟩
  | bitSet k on fb word set => exact .inr ⟨k, on, word⟩

/-- A move that changes the configuration, the buffer or CANCEL is a reset, a write of CMD or a write of CTRL. -/
theorem MoveEffect.block_writers {s t : State} {m : Move} (e : MoveEffect s m t) :
    m = .reset ∨ (t.cfg = s.cfg ∧ t.fb = s.fb ∧ t.cancel = s.cancel) ∨
    (∃ v, m = .hostWrite { offset := 0, width := 4 } v ∧ t.cancel = s.cancel ∧ WordEffect (decodeHost v) s t) ∨
    (∃ v, m = .hostWrite { offset := 8, width := 4 } v ∧ t.cfg = s.cfg ∧ t.fb = s.fb) := by
  cases e with
  | word v effect =>
    have hcancel : t.cancel = s.cancel := by rw [effect.frame]
    exact .inr (.inr (.inl ⟨v, rfl, hcancel, effect⟩))
  | ctrl v => exact .inr (.inr (.inr ⟨v, rfl, rfl, rfl⟩))
  | reset => exact .inl rfl
  | request w effect =>
    rw [effect.frame]
    exact .inr (.inl ⟨rfl, rfl, rfl⟩)
  | seq effect =>
    rw [effect.frame]
    exact .inr (.inl ⟨rfl, rfl, rfl⟩)
  | ignored a v => exact .inr (.inl ⟨rfl, rfl, rfl⟩)
  | read a => exact .inr (.inl ⟨rfl, rfl, rfl⟩)
  | busy b => exact .inr (.inl ⟨rfl, rfl, rfl⟩)
  | resp r => exact .inr (.inl ⟨rfl, rfl, rfl⟩)

theorem MoveEffect.request_of_alone_ne {s t : State} {m : Move} (e : MoveEffect s m t) (h : t.alone ≠ s.alone) :
    ∃ w, m = .fbRequest w ∧ RequestEffect (decodeFb w) s t := by
  by_cases hm : ∃ w, m = .fbRequest w
  · obtain ⟨w, rfl⟩ := hm
    cases e with
    | request w effect => exact ⟨w, rfl, effect⟩
  · exact absurd (e.alone_eq (fun w hw => hm ⟨w, hw⟩)) h

/-- Settles O16: the writers of the move that the step makes. -/
theorem onlyTheNamedWriters : Obligations.OnlyTheNamedWriters := by
  intro s t hstep
  have e := step_effect hstep
  obtain ⟨hrom, hxmax⟩ := e.parameters
  have halone (hne : t.alone ≠ s.alone) : ∃ v rest, s.moves = .fbRequest v :: rest ∧
      (t.alone.fb ≠ s.alone.fb → (∃ c, decodeFb v = .fbCreate c) ∨ ∃ i on, decodeFb v = .fbSetBit i on) := by
    obtain ⟨w, hm, effect⟩ := e.request_of_alone_ne hne
    exact ⟨w, _, moves_eq_of_upcoming hm (by simp), effect.create_or_setBit_of_fb_ne⟩
  rcases e.block_writers with hm | ⟨hcfg, hfb, hcancel⟩ | ⟨v, hm, hcancel, effect⟩ | ⟨v, hm, hcfg, hfb⟩
  · have hmoves := moves_eq_of_upcoming hm (by simp)
    exact ⟨hrom, hxmax, fun _ => ⟨_, .inl hmoves⟩, fun _ => ⟨_, .inl hmoves⟩, fun _ => ⟨_, .inl hmoves⟩, halone⟩
  · exact ⟨hrom, hxmax, absurd hcfg, absurd hfb, absurd hcancel, halone⟩
  · have hmoves := moves_eq_of_upcoming hm (by simp)
    refine ⟨hrom, hxmax, fun hne => ?_, fun hne => ?_, absurd hcancel, halone⟩
    · obtain ⟨w, h, hword⟩ := effect.create_of_cfg_ne hne
      exact ⟨_, .inr ⟨v, w, h, hmoves, hword⟩⟩
    · exact ⟨_, .inr ⟨v, hmoves, effect.create_or_setpix_of_fb_ne hne⟩⟩
  · have hmoves := moves_eq_of_upcoming hm (by simp)
    exact ⟨hrom, hxmax, absurd hcfg, absurd hfb, fun _ => ⟨_, .inr ⟨v, hmoves⟩⟩, halone⟩

/-! ### One unit outstanding -/

/-- At most one event, told by REQ: nothing, a unit sent while none was outstanding, or the answer to the outstanding
one (20_memory.md R61). -/
def OneEvent (s t : State) : Prop :=
  (t.trace = s.trace ∧ t.port.req = s.port.req) ∨
  (∃ c d, t.trace = s.trace ++ [.sent c d] ∧ s.port.req = false ∧ t.port.req = true) ∨
  ((t.trace = s.trace ++ [.ok] ∨ t.trace = s.trace ++ [.fail]) ∧ s.port.req = true ∧ t.port.req = false)

theorem EngineEffect.oneEvent {s t : State} (h : BlockInv s) (e : EngineEffect s t) : OneEvent s t := by
  cases e with
  | held => exact .inl ⟨rfl, rfl⟩
  | waiting phase fits => exact .inl ⟨rfl, rfl⟩
  | overran phase => exact .inl ⟨rfl, rfl⟩
  | polled st phase action poll => exact .inl ⟨rfl, rfl⟩
  | waited st phase poll => exact .inl ⟨by simp, by simp⟩
  | sent u phase action =>
    exact .inr (.inl ⟨u.cmd, u.data, rfl, h.engine.req_eq_false (by simp [phase]), rfl⟩)
  | answeredOk phase => exact .inr (.inr ⟨.inl (by simp), h.req_resp.mpr phase, by simp⟩)
  | answeredFail phase => exact .inr (.inr ⟨.inr rfl, h.req_resp.mpr phase, rfl⟩)

theorem MoveEffect.oneEvent {s t : State} {m : Move} (h : BlockInv s) (hm : m ≠ .reset) (e : MoveEffect s m t) :
    OneEvent s t := by
  rcases e.block_or_outside with ⟨v, -, effect⟩ | ⟨-, effect⟩ | ⟨hreset, -⟩ | houtside
  · rw [effect.frame]
    exact .inl ⟨rfl, rfl⟩
  · exact effect.oneEvent h
  · exact absurd hreset hm
  · rw [houtside]
    exact .inl ⟨rfl, rfl⟩

/-- Settles O54: REQ is 1 exactly in RESP, where alone an answer is taken. -/
theorem oneUnitOutstanding : Obligations.OneUnitOutstanding := by
  intro s t h hreset hstep
  have hm : upcoming s ≠ .reset := fun hm => hreset _ (moves_eq_of_upcoming hm (by simp))
  have hevent : OneEvent (taken s) t := (step_effect hstep).oneEvent h.taken hm
  exact hevent

end Sys2Proof.Machine
end

section
/-! The memory: host accesses by their form (20_memory.md R55), the bits and bytes of the FB (R51 to R53), and the units at
SEND that carry the buffer and its addresses (42_command_protocol.md part 3). -/

namespace Sys2Proof.Machine

open Sys2Proof.Expected

/-! ### Accesses without a meaning -/

theorem aligned_eq_false {a : Access} (h : a.width ≠ 4 ∨ a.offset % 4 ≠ 0) : a.aligned = false := by
  rw [Bool.eq_false_iff, Ne, aligned_iff]
  omega

theorem hostRead_refused {a : Access} (h : a.aligned = false) (s : State) : hostRead a s = .refused .hostAccessForm := by
  simp [hostRead, h]

theorem hostWrite_refused {a : Access} (h : a.aligned = false) (v : Word) (s : State) :
    hostWrite a v s = .refused .hostAccessForm := by
  simp [hostWrite, h]

theorem hostRead_aligned {a : Access} (h : a.aligned = true) (s : State) :
    hostRead a s = .next { s with hostData := readValue a.offset s } := by
  simp [hostRead, h]

/-- Settles O28: the step is the access itself, which its form decides. -/
theorem onlyAlignedWordsHaveMeaning : Obligations.OnlyAlignedWordsHaveMeaning := by
  intro s a rest
  refine ⟨fun hform => ⟨fun hm => ?_, fun v hm => ?_⟩, fun hwidth hoffset hm => ?_⟩
  · rw [step_cons hm]
    exact hostRead_refused (aligned_eq_false hform) _
  · rw [step_cons hm]
    exact hostWrite_refused (aligned_eq_false hform) v _
  · rw [step_cons hm]
    exact ⟨_, hostRead_aligned ((aligned_iff a).mpr ⟨hwidth, hoffset⟩) _⟩

/-! ### One bit of the FB -/

/-- Bit `j` after the write of any byte: a bit of the new byte, or as before. -/
theorem bitAt_write (m : Memory) (k : Nat) (v : Byte) (j : Nat) :
    bitAt (m.write k v) j = if j / 8 = k then some (v.getLsbD (j % 8)) else bitAt m j := by
  unfold bitAt
  rw [Memory.read_write]
  split <;> rfl

/-- Every bit after a bit write: the addressed one has the value, the other seven of its byte are kept by `setBitIn`, and
the other bytes are not written (20_memory.md R51, R52). -/
theorem bitAt_fbWriteBit {m m' : Memory} {i : Nat} {b : Bool} (h : fbWriteBit m i b = .ok m') (j : Nat) :
    bitAt m' j = if j = i then some b else bitAt m j := by
  obtain ⟨old, hold, -, rfl⟩ := fbWriteBit_ok m i b m' h
  rw [bitAt_write]
  by_cases hbyte : j / 8 = i / 8
  · have hplace : j % 8 = i % 8 ↔ j = i := by omega
    have hj : bitAt m j = some (old.getLsbD (j % 8)) := by rw [bitAt, hbyte, hold]; rfl
    rw [if_pos hbyte, setBitIn_getLsbD old i b _ (Nat.mod_lt j (by omega)), hj]
    simp only [hplace]
    split <;> rfl
  · rw [if_neg hbyte, if_neg (fun e => hbyte (congrArg (· / 8) e))]

/-- A bit write leaves every byte but the bit's own. -/
theorem read_fbWriteBit_of_ne {m m' : Memory} {i k : Nat} {b : Bool} (h : fbWriteBit m i b = .ok m') (hk : k ≠ i / 8) :
    m'.read k = m.read k := by
  obtain ⟨old, -, -, rfl⟩ := fbWriteBit_ok m i b m' h
  rw [Memory.read_write, if_neg hk]

/-- Settles O31: the byte has a value, so the write answers. -/
theorem writeBitChangesOneBit : Obligations.WriteBitChangesOneBit := by
  intro m i b hbound hvalue
  obtain ⟨old, hold⟩ := Option.isSome_iff_exists.mp hvalue
  have hwrite := fbWriteBit_of_read m i b old hbound hold
  exact ⟨_, hwrite, bitAt_fbWriteBit hwrite, fun k hk => read_fbWriteBit_of_ne hwrite hk⟩

/-! ### The buffer as bytes -/

/-- The first n bytes of asBytes are n bytes where the buffer has as many (40_framebuffer.md R103). -/
theorem asBytes_of_le {fb : Fb} {n : Nat} (hs : FbSound fb) (hn : n ≤ fb.cap.toNat / 8) :
    ∃ bs, fb.asBytes n = .ok bs ∧ bs.length = n ∧ ∀ k, k < n → bs[k]? = fb.bytes.read k := by
  have h := Fb.asBytes_sound fb n hs
  rwa [Nat.min_eq_left hn] at h

/-- Settles O35: the first n bytes and the whole list the same bytes of the buffer, index by index. -/
theorem asBytesIsTheBuffer : Obligations.AsBytesIsTheBuffer := by
  intro fb n hs hn
  obtain ⟨bs, hbs, hlen, hbyte⟩ := asBytes_of_le hs hn
  refine ⟨bs, hbs, hlen, hbyte, fun all hall => List.ext_getElem? fun k => ?_⟩
  obtain ⟨whole, hwhole, -, hwholeByte⟩ := asBytes_of_le hs le_rfl
  obtain rfl : whole = all := Except.ok.inj (hwhole.symm.trans hall)
  by_cases hk : k < n
  · rw [List.getElem?_take_of_lt hk, hbyte k hk, hwholeByte k (by omega)]
  · rw [List.getElem?_eq_none (by omega), List.getElem?_eq_none (by rw [List.length_take]; omega)]

/-! ### Units at SEND -/

theorem unitStep_send {s : State} (h : s.seq.phase = .send) (u : PanelUnit) :
    unitStep u s = .next (presented u.cmd u.data s) := by
  simp only [unitStep, h]
  rfl

/-- At SEND a row's instruction presents the unit that the row's own rule gives (42_command_protocol.md R153). -/
theorem exec_rowInstr_send {s : State} {c : Byte} {d : List Byte} (h : s.seq.phase = .send) (row : UnitRow)
    (hunit : rowUnit row s = { cmd := c, data := d }) : exec (rowInstr row) s = .next (presented c d s) := by
  rw [exec_rowInstr, unitStep_send h, hunit]

/-- At SEND the XFER presents the bytes that the buffer gives it (42_command_protocol.md R156). -/
theorem xferStep_send {s : State} {d : List Byte} (h : s.seq.phase = .send)
    (hread : s.fb.asBytes (transferBytes s.cfg.w s.cfg.h) = .ok d) (c : Byte) :
    xferStep c s = .next (presented c d s) := by
  simp only [xferStep, h, hread]
  rfl

/-- Settles O50: the data are asBytes()[0..N), which the buffer holds. -/
theorem writeRamSendsTheBuffer : Obligations.WriteRamSendsTheBuffer := by
  intro s hs hp hfit
  obtain ⟨d, hread, hlen, hbyte⟩ := asBytes_of_le hs hfit
  exact ⟨d, hlen, fun k hk => hbyte k (hlen ▸ hk), xferStep_send hp hread 0x24#8⟩

/-! ### The bytes of an address -/

/-- The low byte needs no truncation of its own: eight bits hold a number modulo 256. -/
theorem lo8_eq_ofNat (n : Nat) : lo8 n = BitVec.ofNat 8 n :=
  BitVec.eq_of_toNat_eq (by simp [lo8])

theorem lastColumn_eq (w : BitVec 8) : lastColumn w = BitVec.ofNat 8 (ceil8 w.toNat / 8 - 1) := lo8_eq_ofNat _

theorem lastRowLow_eq (h : BitVec 8) : lastRowLow h = BitVec.ofNat 8 (h.toNat - 1) := lo8_eq_ofNat _

/-- H is a byte, so that H - 1 has no high byte (42_command_protocol.md R167). -/
theorem lastRowHigh_eq_zero (h : BitVec 8) : lastRowHigh h = 0x00#8 := by
  have hdiv : (h.toNat - 1) / 256 = 0 := by omega
  simp [lastRowHigh, hi8, hdiv]

/-- Settles O48: each unit is the one of its row, with the addresses of R167 and R168 as bytes. -/
theorem addressingUnitsSend : Obligations.AddressingUnitsSend := by
  intro s hp
  simp only [← lastColumn_eq, ← lastRowLow_eq]
  refine ⟨⟨exec_rowInstr_send hp .ramXwin rfl, exec_rowInstr_send hp .ramYwin ?_⟩,
    fun hmode => ⟨exec_rowInstr_send hp .ramXptr ?_, exec_rowInstr_send hp .ramYptr ?_⟩,
    fun hmode => ⟨exec_rowInstr_send hp .ramXptr ?_, exec_rowInstr_send hp .ramYptr ?_⟩⟩
  · simp only [rowUnit, unitRamYwin, lastRowHigh_eq_zero]
  · simp only [rowUnit, unitRamXptr, hmode, xPointer]
  · simp only [rowUnit, unitRamYptr, hmode, yPointer, lastRowHigh_eq_zero]
  · simp only [rowUnit, unitRamXptr, hmode, xPointer]
  · simp only [rowUnit, unitRamYptr, hmode, yPointer]

end Sys2Proof.Machine
end

section
/-! The encodings: the decoder and the encoder are inverse to each other on every port (30_encoding.md R70 to R85), and a
word is legal exactly when it matches one row (R77, R82). -/

namespace Sys2Proof

open Sys2Proof.Expected

/-! ### Fields of a word -/

theorem extractLsb'_eq_iff {n l : Nat} (w : BitVec n) (i : Nat) (f : BitVec l) :
    w.extractLsb' i l = f ↔ w.toNat / 2 ^ i % 2 ^ l = f.toNat := by
  rw [← BitVec.toNat_inj, toNat_extractLsb'_div]

theorem extractLsb'_eq_of_toNat {n i l : Nat} {w : BitVec n} {f : BitVec l} (h : w.toNat / 2 ^ i % 2 ^ l = f.toNat) :
    w.extractLsb' i l = f :=
  (extractLsb'_eq_iff w i f).mpr h

theorem getLsbD_eq_of_toNat {n i : Nat} {w : BitVec n} {b : Bool} (h : w.toNat / 2 ^ i % 2 = b.toNat) :
    w.getLsbD i = b := by
  rw [getLsbD_eq_div, h]
  cases b <;> rfl

theorem toNat_getLsbD {n : Nat} (w : BitVec n) (i : Nat) : (w.getLsbD i).toNat = w.toNat / 2 ^ i % 2 := by
  rw [getLsbD_eq_div]
  rcases Nat.mod_two_eq_zero_or_one (w.toNat / 2 ^ i) with h | h <;> rw [h] <;> rfl

/-! ### Legality -/

theorem decodeHost_eq_illegal_iff (w : Word) : decodeHost w = .illegal w ↔ hostWordLegal w = false := by
  rw [← Bool.not_eq_true, hostWordLegal_iff, decodeHost_eq]
  split_ifs <;> simp [*]

theorem decodeFb_eq_fbIllegal_iff (w : Word) : decodeFb w = .fbIllegal w ↔ fbWordLegal w = false := by
  rw [← Bool.not_eq_true, fbWordLegal_iff, decodeFb_eq]
  split_ifs <;> simp [*]

/-- The number of rows a word matches: the rows are counted one by one. -/
theorem length_matching_cons (r : Word × Word) (rows : List (Word × Word)) (w : Word) :
    (matching (r :: rows) w).length = (if rowHit w r.1 r.2 then 1 else 0) + (matching rows w).length := by
  change (List.filter (fun r => rowHit w r.1 r.2) (r :: rows)).length = _
  rw [List.filter_cons]
  split
  · exact Nat.add_comm _ _
  · exact (Nat.zero_add _).symm

/-- The OP fields tell the host rows apart, so a legal word matches one of them and an illegal word none (30_encoding.md
R77). -/
theorem length_matching_hostRows (w : Word) : (matching hostRows w).length = if hostWordLegal w then 1 else 0 := by
  simp only [hostRows, length_matching_cons, rowHit_create, rowHit_setpix, rowHit_flush, rowHit_exact, rowHit_readfb,
    hostWordLegal_iff, decide_eq_true_eq, BitVec.toNat_ofNat, Nat.reducePow, Nat.reduceMod]
  simp only [matching, List.filter_nil, List.length_nil]
  split_ifs <;> omega

theorem length_matching_fbRows (w : Word) : (matching fbRows w).length = if fbWordLegal w then 1 else 0 := by
  simp only [fbRows, length_matching_cons, rowHit_fbCreate, rowHit_fbSetBit, rowHit_fbRead, fbWordLegal_iff,
    decide_eq_true_eq]
  simp only [matching, List.filter_nil, List.length_nil]
  split_ifs <;> omega

/-- Settles O4: each of the four readings of a word's legality is `hostWordLegal`. -/
theorem hostWordLegality : Obligations.HostWordLegality := by
  intro w
  rw [length_matching_hostRows, Ne, decodeHost_eq_illegal_iff]
  cases hostWordLegal w <;> simp

/-- An FB word is illegal by one of the three causes of R82. -/
theorem fbWordLegal_eq_false_iff (w : Word) : fbWordLegal w = false ↔
    w.extractLsb' 30 2 = 3#2 ∨ w.extractLsb' 25 5 ≠ 0#5 ∨ (w.getLsbD 24 = true ∧ w.extractLsb' 30 2 ≠ 1#2) := by
  have hw := w.isLt
  simp only [← Bool.not_eq_true, fbWordLegal_iff, ne_eq, extractLsb'_eq_iff, getLsbD_eq_div, decide_eq_true_eq,
    BitVec.toNat_ofNat, Nat.reducePow, Nat.reduceMod]
  omega

/-- Settles O5: the three causes, the rows and the decoder agree with `fbWordLegal`. -/
theorem fbWordLegality : Obligations.FbWordLegality := by
  intro w
  refine ⟨?_, ?_, fun s => rfl⟩
  · rw [decodeFb_eq_fbIllegal_iff, fbWordLegal_eq_false_iff]
  · rw [decodeFb_eq_fbIllegal_iff, ← List.length_eq_zero_iff, length_matching_fbRows]
    cases fbWordLegal w <;> simp

/-! ### Decoding an encoded word -/

theorem decodeHost_encode_create (w h : BitVec 8) : decodeHost (0x1000#16 ++ w ++ h) = .create w h := by
  have hn := toNat_encode_create w h
  rw [decodeHost_eq, if_pos (by omega), extractLsb'_eq_of_toNat (f := w) (by omega),
    extractLsb'_eq_of_toNat (f := h) (by omega)]

theorem decodeHost_encode_setpix (x y : BitVec 8) (on : Bool) :
    decodeHost (0x1000#15 ++ BitVec.ofBool on ++ x ++ y) = .setpix x y on := by
  have hn := toNat_encode_setpix x y on
  have hon := on.toNat_lt
  rw [decodeHost_eq, if_neg (by omega), if_pos (by omega), extractLsb'_eq_of_toNat (f := x) (by omega),
    extractLsb'_eq_of_toNat (f := y) (by omega), getLsbD_eq_of_toNat (b := on) (by omega)]

theorem decodeHost_encode_readfb (k : BitVec 13) : decodeHost (0x30000#19 ++ k) = .readfb k := by
  have hn := toNat_encode_readfb k
  rw [decodeHost_eq, if_neg (by omega), if_neg (by omega), if_neg (by omega), if_neg (by omega), if_neg (by omega),
    if_pos (by omega), extractLsb'_eq_of_toNat (f := k) (by omega)]

theorem decodeFb_encode_fbCreate (c : BitVec 24) : decodeFb (0x00#8 ++ c) = .fbCreate c := by
  have hn := toNat_encode_fbCreate c
  rw [decodeFb_eq, if_pos (by omega), extractLsb'_eq_of_toNat (f := c) (by omega)]

theorem decodeFb_encode_fbSetBit (i : BitVec 24) (on : Bool) :
    decodeFb (0x20#7 ++ BitVec.ofBool on ++ i) = .fbSetBit i on := by
  have hn := toNat_encode_fbSetBit i on
  have hon := on.toNat_lt
  rw [decodeFb_eq, if_neg (by omega), if_pos (by omega), extractLsb'_eq_of_toNat (f := i) (by omega),
    getLsbD_eq_of_toNat (b := on) (by omega)]

theorem decodeFb_encode_fbRead (k : BitVec 24) : decodeFb (0x80#8 ++ k) = .fbRead k := by
  have hn := toNat_encode_fbRead k
  rw [decodeFb_eq, if_neg (by omega), if_neg (by omega), if_pos (by omega), extractLsb'_eq_of_toNat (f := k) (by omega)]

/-! ### Decoding a unit's command byte -/

theorem decodeUnit_of_fixed {rom : Rom} {e : Emitter} {c : Byte} {i : Instr} (h : decodeFixedUnit e c = some i) :
    decodeUnit rom e c = .ok i := by
  simp only [decodeUnit, h]

theorem decodeUnit_of_open {rom : Rom} {e : Emitter} {c : Byte} {i : Instr} (hfixed : decodeFixedUnit e c = none)
    (hopen : decodeOpenUnit rom e c = some i) : decodeUnit rom e c = .ok i := by
  simp only [decodeUnit, hfixed, hopen]

/-- A unit that is read has a fixed byte or an open one. -/
theorem decodeUnit_ok {rom : Rom} {e : Emitter} {c : Byte} {i : Instr} (h : decodeUnit rom e c = .ok i) :
    decodeFixedUnit e c = some i ∨ decodeOpenUnit rom e c = some i := by
  unfold decodeUnit at h
  split at h
  · next hfixed => cases h; exact .inl hfixed
  · split at h
    · next hopen => cases h; exact .inr hopen
    · cases h

theorem decodeOpenUnit_lut (rom : Rom) : decodeOpenUnit rom .flush rom.lutCmd = some .lut := if_pos rfl

theorem decodeOpenUnit_pon (rom : Rom) : decodeOpenUnit rom .powerOn rom.ponCmd = some .pon := if_pos rfl

theorem decodeOpenUnit_act {rom : Rom} (h : rom.actCmd ≠ rom.ponCmd) :
    decodeOpenUnit rom .powerOn rom.actCmd = some .act :=
  (if_neg h).trans (if_pos rfl)

/-- Settles O2: by the row of the instruction; the open bytes are read where no unit before them has the byte. -/
theorem decodeEncodeAgree : Obligations.DecodeEncodeAgree := by
  intro r i hwf hlut hact
  cases i with
  | create w h => exact congrArg Except.ok (decodeHost_encode_create w h)
  | setpix x y on => exact congrArg Except.ok (decodeHost_encode_setpix x y on)
  | readfb k => exact congrArg Except.ok (decodeHost_encode_readfb k)
  | illegal w =>
    have hw : hostWordLegal w = false := by simpa [Instr.wellFormed] using hwf
    exact congrArg Except.ok ((decodeHost_eq_illegal_iff w).mpr hw)
  | fbCreate c => exact congrArg Except.ok (decodeFb_encode_fbCreate c)
  | fbSetBit k on => exact congrArg Except.ok (decodeFb_encode_fbSetBit k on)
  | fbRead k => exact congrArg Except.ok (decodeFb_encode_fbRead k)
  | fbIllegal w =>
    have hw : fbWordLegal w = false := by simpa [Instr.wellFormed] using hwf
    exact congrArg Except.ok ((decodeFb_eq_fbIllegal_iff w).mpr hw)
  | lut => exact decodeUnit_of_open (hlut rfl) (decodeOpenUnit_lut r)
  | pon => exact decodeUnit_of_open rfl (decodeOpenUnit_pon r)
  | act => exact decodeUnit_of_open rfl (decodeOpenUnit_act (hact rfl))
  | flushFull | flushPartial | pwron | pwroff | init01 | init0C | init2C | init3A | init3B | init11 | ramXwin | ramYwin
  | ramXptr | ramYptr | writeRam | update | sync20 | syncFF | poff12 | poff82 | poff01 | poff02 => rfl

/-! ### Encoding what was decoded -/

/-- No bit of a host word is dropped: the operands are its fields, and the other bits are the row's. -/
theorem encode_decodeHost (r : Rom) (w : Word) : encode r (decodeHost w) = .host w := by
  rw [decodeHost_eq]
  split_ifs with hcreate hsetpix hflush hmode hpwron hpwroff hreadfb
  · refine congrArg Encoded.host (BitVec.eq_of_toNat_eq ?_)
    rw [toNat_encode_create, toNat_extractLsb'_div, toNat_extractLsb'_div]
    omega
  · refine congrArg Encoded.host (BitVec.eq_of_toNat_eq ?_)
    rw [toNat_encode_setpix, toNat_extractLsb'_div, toNat_extractLsb'_div, toNat_getLsbD]
    omega
  · rw [getLsbD_eq_div, decide_eq_true_iff] at hmode
    exact congrArg Encoded.host (BitVec.eq_of_toNat_eq (by rw [BitVec.toNat_ofNat]; omega))
  · rw [getLsbD_eq_div, decide_eq_true_iff] at hmode
    exact congrArg Encoded.host (BitVec.eq_of_toNat_eq (by rw [BitVec.toNat_ofNat]; omega))
  · exact congrArg Encoded.host (BitVec.eq_of_toNat_eq hpwron.symm)
  · exact congrArg Encoded.host (BitVec.eq_of_toNat_eq hpwroff.symm)
  · refine congrArg Encoded.host (BitVec.eq_of_toNat_eq ?_)
    rw [toNat_encode_readfb, toNat_extractLsb'_div]
    omega
  · rfl

theorem encode_decodeFb (r : Rom) (w : Word) : encode r (decodeFb w) = .fb w := by
  rw [decodeFb_eq]
  split_ifs with hcreate hsetBit hread
  · refine congrArg Encoded.fb (BitVec.eq_of_toNat_eq ?_)
    rw [toNat_encode_fbCreate, toNat_extractLsb'_div]
    omega
  · refine congrArg Encoded.fb (BitVec.eq_of_toNat_eq ?_)
    rw [toNat_encode_fbSetBit, toNat_extractLsb'_div, toNat_getLsbD]
    omega
  · refine congrArg Encoded.fb (BitVec.eq_of_toNat_eq ?_)
    rw [toNat_encode_fbRead, toNat_extractLsb'_div]
    omega
  · rfl

/-- Only an illegal word decodes to `illegal`; every other operand is well formed. -/
theorem decodeHost_wellFormed (w : Word) : (decodeHost w).wellFormed = true := by
  cases hw : hostWordLegal w with
  | false =>
    rw [(decodeHost_eq_illegal_iff w).mpr hw]
    simp [Instr.wellFormed, hw]
  | true =>
    rw [hostWordLegal_iff] at hw
    rw [decodeHost_eq]
    split_ifs
    any_goals rfl
    omega

theorem decodeFb_wellFormed (w : Word) : (decodeFb w).wellFormed = true := by
  cases hw : fbWordLegal w with
  | false =>
    rw [(decodeFb_eq_fbIllegal_iff w).mpr hw]
    simp [Instr.wellFormed, hw]
  | true =>
    rw [fbWordLegal_iff] at hw
    rw [decodeFb_eq]
    split_ifs
    any_goals rfl
    omega

/-- A row of a decoder by bytes: the byte is the row's, or the rows after it read it. -/
theorem ite_some_or {c b : Byte} {a i : Instr} {rest : Option Instr} (h : (if c = b then some a else rest) = some i) :
    (c = b ∧ i = a) ∨ rest = some i := by
  split at h
  · next hc => exact .inl ⟨hc, (Option.some.inj h).symm⟩
  · exact .inr h

theorem decodeFixedUnit_encode {e : Emitter} {c : Byte} {i : Instr} (r : Rom) (h : decodeFixedUnit e c = some i) :
    i.wellFormed = true ∧ encode r i = .unit e c := by
  unfold decodeFixedUnit at h
  cases e with
  | flush =>
    iterate 14
      rcases ite_some_or h with ⟨rfl, rfl⟩ | h
      · exact ⟨rfl, rfl⟩
    cases h
  | powerOn => cases h
  | powerOff =>
    iterate 4
      rcases ite_some_or h with ⟨rfl, rfl⟩ | h
      · exact ⟨rfl, rfl⟩
    cases h

theorem decodeOpenUnit_encode {r : Rom} {e : Emitter} {c : Byte} {i : Instr} (h : decodeOpenUnit r e c = some i) :
    i.wellFormed = true ∧ encode r i = .unit e c := by
  unfold decodeOpenUnit at h
  cases e with
  | flush =>
    rcases ite_some_or h with ⟨rfl, rfl⟩ | h
    · exact ⟨rfl, rfl⟩
    · cases h
  | powerOn =>
    rcases ite_some_or h with ⟨rfl, rfl⟩ | h
    · exact ⟨rfl, rfl⟩
    · rcases ite_some_or h with ⟨rfl, rfl⟩ | h
      · exact ⟨rfl, rfl⟩
      · cases h
  | powerOff => cases h

/-- Settles O3: port by port. -/
theorem encodeDecodeAgree : Obligations.EncodeDecodeAgree := by
  intro r e i h
  cases e with
  | host w =>
    cases h
    exact ⟨decodeHost_wellFormed w, encode_decodeHost r w⟩
  | fb w =>
    cases h
    exact ⟨decodeFb_wellFormed w, encode_decodeFb r w⟩
  | unit e c =>
    rcases decodeUnit_ok h with hfixed | hopen
    · exact decodeFixedUnit_encode r hfixed
    · exact decodeOpenUnit_encode hopen

/-! ### The examples of the spec -/

/-- Settles O1: the words are encodings of their instructions, or break a reserved bit or the FOP. -/
theorem specWordsDecode : Obligations.SpecWordsDecode :=
  ⟨decodeHost_encode_create 8#8 2#8, decodeHost_encode_setpix 7#8 1#8 true, decodeHost_encode_setpix 3#8 0#8 false,
    rfl, rfl, rfl, rfl, decodeHost_encode_readfb 1#13, (decodeHost_eq_illegal_iff _).mpr (by decide),
    decodeFb_encode_fbCreate 65024#24, decodeFb_encode_fbSetBit 9#24 true, decodeFb_encode_fbRead 7#24,
    (decodeFb_eq_fbIllegal_iff _).mpr (by decide), fun _ => ⟨rfl, rfl, rfl⟩⟩

end Sys2Proof
end

section
/-! The two FBs: a harness's request reaches the FB alone only, and CREATE, SETPIX and READFB act on the block's FB as the
requests act on an equal FB alone (40_framebuffer.md R106). -/

namespace Sys2Proof.Machine

open Sys2Proof.Expected

/-- Settles O38: the effects of a request. -/
theorem fbRequestFrame : Obligations.FbRequestFrame := by
  intro s t w h
  have effect := exec_fbWord_effect (isFbWord_decodeFb w) h
  exact ⟨effect.frame, effect.keeps_alone⟩

/-! ### What a request answers -/

theorem exec_fbCreate_answer {c : BitVec 24} {s : State} {r : ResultCode} {fb : Fb}
    (h : s.alone.fb.create c.toNat = (r, fb)) : exec (.fbCreate c) s = .next (respond r none fb s) := by
  change execFbCreate c s = _
  simp only [execFbCreate, h]

theorem exec_fbSetBit_answer {i : BitVec 24} {on : Bool} {s : State} {r : ResultCode} {fb : Fb}
    (h : s.alone.fb.setBit i.toNat on = .ok (r, fb)) : exec (.fbSetBit i on) s = .next (respond r none fb s) := by
  change execFbSetBit i on s = _
  simp only [execFbSetBit, h]

theorem exec_fbRead_some {k : BitVec 24} {s : State} {v : Byte} (h : s.alone.fb.readByte k.toNat = .ok (some v)) :
    exec (.fbRead k) s = .next (respond .ok (some v) s.alone.fb s) := by
  change execFbRead k s = _
  simp only [execFbRead, h]

theorem exec_fbRead_none {k : BitVec 24} {s : State} (h : s.alone.fb.readByte k.toNat = .ok none) :
    exec (.fbRead k) s = .next (respond .invalidIndex none s.alone.fb s) := by
  change execFbRead k s = _
  simp only [execFbRead, h]

/-! ### What the FB answers to an operation of the block -/

theorem createBody_fb {w h : BitVec 8} {s t : State} (hw : 1 ≤ w.toNat) (hh : 1 ≤ h.toNat)
    (hb : createBody w h s = .ok t) :
    ∃ r, s.fb.create (w.toNat * h.toNat) = (r, t.fb) ∧ t.status.code = r.bits := by
  have hpos : ¬ (w = 0#8 ∨ h = 0#8) := by
    rintro (rfl | rfl)
    · exact absurd hw (by decide)
    · exact absurd hh (by decide)
  rw [createBody, if_neg hpos] at hb
  rcases Fb.create_cases s.fb (w.toNat * h.toNat) with ⟨-, e⟩ | ⟨-, -, e⟩ <;> rw [e] at hb ⊢ <;> cases hb <;>
    exact ⟨_, rfl, rfl⟩

theorem setpixBody_fb {x y : BitVec 8} {on : Bool} {s t : State} (hc : s.cfg.configured = true)
    (hx : x.toNat ≤ s.cfg.w.toNat) (hy : y.toNat ≤ s.cfg.h.toNat) (hb : setpixBody x y on s = .ok t) :
    ∃ r, s.fb.setBit (pixelIndex s.xmax x y) on = .ok (r, t.fb) ∧ t.status.code = r.bits := by
  rw [setpixBody, if_neg (by simp [hc]), if_neg (by omega)] at hb
  cases hset : s.fb.setBit (pixelIndex s.xmax x y) on with
  | error f => rw [hset] at hb; cases hb
  | ok answer => rw [hset] at hb; cases hb; exact ⟨answer.1, rfl, rfl⟩

theorem readfbBody_fb {k : BitVec 13} {s t : State} (hc : s.cfg.configured = true) (hb : readfbBody k s = .ok t) :
    t.fb = s.fb ∧
      ((s.fb.readByte k.toNat = .ok (some t.status.rdata) ∧ t.status.code = ResultCode.ok.bits) ∨
       (s.fb.readByte k.toNat = .ok none ∧ t.status.code = ResultCode.invalidIndex.bits)) := by
  rw [readfbBody, if_neg (by simp [hc])] at hb
  cases hread : s.fb.readByte k.toNat with
  | error f => rw [hread] at hb; cases hb
  | ok answer =>
    rw [hread] at hb
    cases answer with
    | none => cases hb; exact ⟨rfl, .inr ⟨rfl, rfl⟩⟩
    | some v => cases hb; exact ⟨rfl, .inl ⟨rfl, rfl⟩⟩

/-! ### The operation's argument as a request's -/

/-- Two bytes multiplied fit the 24 bits of an FB argument. -/
theorem toNat_ofNat_area (w h : BitVec 8) : (BitVec.ofNat 24 (w.toNat * h.toNat)).toNat = w.toNat * h.toNat := by
  have harea : w.toNat * h.toNat ≤ 255 * 255 := Nat.mul_le_mul (Nat.le_of_lt_succ w.isLt) (Nat.le_of_lt_succ h.isLt)
  rw [BitVec.toNat_ofNat]
  exact Nat.mod_eq_of_lt (by omega)

/-- A pixel index fits the 24 bits of an FB argument (41_panel_controller.md R132). -/
theorem toNat_ofNat_pixelIndex (xmax : BitVec 16) (x y : BitVec 8) :
    (BitVec.ofNat 24 (y.toNat * xmax.toNat + x.toNat)).toNat = pixelIndex xmax x y := by
  have hrow : y.toNat * xmax.toNat ≤ 255 * 65535 :=
    Nat.mul_le_mul (Nat.le_of_lt_succ y.isLt) (Nat.le_of_lt_succ xmax.isLt)
  have hx := x.isLt
  rw [BitVec.toNat_ofNat, pixelIndex]
  exact Nat.mod_eq_of_lt (by omega)

theorem toNat_zeroExtend_index (k : BitVec 13) : (k.zeroExtend 24).toNat = k.toNat :=
  BitVec.toNat_setWidth_of_le (by decide)

/-! ### The operations of the block -/

theorem command_body_of_ready {body : State → Except Fault State} {s t : State} (hr : s.status.ready = true)
    (h : command body s = .next t) : body (cleared s) = .ok t := by
  rcases command_next body s t h with ⟨-, hb⟩ | ⟨hbusy, -⟩
  · exact hb
  · simp [hr] at hbusy

theorem create_as_fbCreate {s t : State} (hr : s.status.ready = true) (hfb : s.alone.fb = s.fb) {w h : BitVec 8}
    (hw : 1 ≤ w.toNat) (hh : 1 ≤ h.toNat) (hexec : exec (.create w h) s = .next t) :
    ∃ u, exec (.fbCreate (BitVec.ofNat 24 (w.toNat * h.toNat))) s = .next u ∧ u.alone.fb = t.fb ∧
      u.alone.code = t.status.code := by
  obtain ⟨r, hcreate, hcode⟩ := createBody_fb (s := cleared s) hw hh (command_body_of_ready hr hexec)
  refine ⟨_, exec_fbCreate_answer (r := r) (fb := t.fb) ?_, rfl, hcode.symm⟩
  rw [hfb, toNat_ofNat_area]
  exact hcreate

theorem setpix_as_fbSetBit {s t : State} (hr : s.status.ready = true) (hfb : s.alone.fb = s.fb) {x y : BitVec 8}
    {on : Bool} (hc : s.cfg.configured = true) (hx : x.toNat ≤ s.cfg.w.toNat) (hy : y.toNat ≤ s.cfg.h.toNat)
    (hexec : exec (.setpix x y on) s = .next t) :
    ∃ u, exec (.fbSetBit (BitVec.ofNat 24 (y.toNat * s.xmax.toNat + x.toNat)) on) s = .next u ∧ u.alone.fb = t.fb ∧
      u.alone.code = t.status.code := by
  obtain ⟨r, hset, hcode⟩ := setpixBody_fb (s := cleared s) hc hx hy (command_body_of_ready hr hexec)
  refine ⟨_, exec_fbSetBit_answer (r := r) (fb := t.fb) ?_, rfl, hcode.symm⟩
  rw [hfb, toNat_ofNat_pixelIndex]
  exact hset

theorem readfb_as_fbRead {s t : State} (hr : s.status.ready = true) (hfb : s.alone.fb = s.fb) {k : BitVec 13}
    (hc : s.cfg.configured = true) (hexec : exec (.readfb k) s = .next t) :
    ∃ u, exec (.fbRead (k.zeroExtend 24)) s = .next u ∧ u.alone.fb = t.fb ∧ u.alone.code = t.status.code ∧
      (u.alone.code = 0#4 → u.alone.data = some t.status.rdata) := by
  obtain ⟨htfb, ⟨hread, hcode⟩ | ⟨hread, hcode⟩⟩ := readfbBody_fb (s := cleared s) hc (command_body_of_ready hr hexec)
  · refine ⟨_, exec_fbRead_some (v := t.status.rdata) ?_, hfb.trans htfb.symm, hcode.symm, fun _ => rfl⟩
    rw [hfb, toNat_zeroExtend_index]
    exact hread
  · have hcode_ne : ResultCode.invalidIndex.bits ≠ 0#4 := by decide
    refine ⟨_, exec_fbRead_none ?_, hfb.trans htfb.symm, hcode.symm, fun hok => absurd hok hcode_ne⟩
    rw [hfb, toNat_zeroExtend_index]
    exact hread

/-- Settles O60: operation by operation. -/
theorem hostWordsActAsFbRequests : Obligations.HostWordsActAsFbRequests := fun _ _ hr hfb =>
  ⟨fun _ _ hw hh => create_as_fbCreate hr hfb hw hh, fun _ _ _ hc hx hy => setpix_as_fbSetBit hr hfb hc hx hy,
    fun _ hc => readfb_as_fbRead hr hfb hc⟩

end Sys2Proof.Machine
end

section
/-! A row of the table that is placed to run next runs in the next step (log 15, log 16). -/

namespace Sys2Proof.Machine

open Sys2Proof.Expected

/-! ### Which instructions a table row reads as -/

/-- A 32-bit row reads as its host word, or as its FB word where the host word is illegal. -/
theorem decodeTableWord32_cases (w : Word) :
    decodeTableWord32 w = decodeHost w ∨ (hostWordLegal w = false ∧ decodeTableWord32 w = decodeFb w) := by
  unfold decodeTableWord32
  split
  · next v hv =>
    have hw : decodeHost w = .illegal w := by
      cases (encode_decodeHost Config.rom w).symm.trans (congrArg _ hv)
      exact hv
    have hh := (decodeHost_eq_illegal_iff w).mp hw
    split
    · exact .inl hw.symm
    · exact .inr ⟨hh, rfl⟩
  · exact .inl rfl

theorem actionOf_hostWord {i : Instr} (h : isHostWord i) (s : State) : actionOf i s = none := by
  rcases h with (⟨w, h, rfl⟩ | ⟨x, y, on, rfl⟩ | ⟨k, rfl⟩ | ⟨w, rfl⟩) | rfl | rfl | rfl | rfl <;> rfl

theorem actionOf_fbWord {i : Instr} (h : isFbWord i) (s : State) : actionOf i s = none := by
  rcases h with ⟨c, rfl⟩ | ⟨k, on, rfl⟩ | ⟨k, rfl⟩ | ⟨w, rfl⟩ <;> rfl

/-- What the panel port carries has an action of its own. -/
theorem actionOf_of_encode_unit {r : Rom} {i : Instr} {e : Emitter} {c : Byte} (h : encode r i = .unit e c) (s : State) :
    ∃ a, actionOf i s = some a := by
  cases i <;> cases h <;> exact ⟨_, rfl⟩

theorem decodeTableByte_encode {c : Byte} {i : Instr} (h : decodeTableByte c = some i) :
    ∃ e, encode Config.rom i = .unit e c := by
  unfold decodeTableByte at h
  split at h
  · next hflush => cases h; exact ⟨_, (decodeFixedUnit_encode _ hflush).2⟩
  · split at h
    · next hoff => cases h; exact ⟨_, (decodeFixedUnit_encode _ hoff).2⟩
    · split at h
      · next hopen => cases h; exact ⟨_, (decodeOpenUnit_encode hopen).2⟩
      · exact ⟨_, (decodeOpenUnit_encode h).2⟩

/-! ### The action of a unit -/

/-- The instruction that SEQ's own step runs for an action; none for WAITONLY. -/
def actionInstr : Action → Option Instr
  | .unit row _ => some (rowInstr row)
  | .waitOnly => none
  | .xfer => some .writeRam

theorem sequencer_of_actionInstr {s : State} {a : Action} {i : Instr} (hp : s.seq.phase ≠ .idle)
    (hc : currentAction s = some a) (hi : actionInstr a = some i) : sequencer s = exec i s := by
  cases a with
  | unit row u => cases hi; exact sequencer_unit hp hc
  | waitOnly => cases hi
  | xfer => cases hi; exact sequencer_xfer hp hc

/-- The action of a unit's instruction runs that instruction. -/
theorem actionInstr_actionOf {i : Instr} {s : State} {a : Action} (h : actionOf i s = some a) :
    actionInstr a = some i := by
  cases i <;> cases h <;> rfl

/-! ### The placed state -/

theorem placeWord_unit {s : State} {n w : Nat} {i : Instr} {a : Action} (hd : decodeTableWord n w = some i)
    (ha : actionOf i s = some a) :
    placeWord s n w = { s with
      moves := .seq :: s.moves
      seq := { s.seq with phase := .send, step := 0#5, acts := [a] } } := by
  simp only [placeWord, hd, ha]

theorem placeWord_hostWord {s : State} {n w : Nat} (hd : decodeTableWord n w = some (decodeHost (BitVec.ofNat 32 w))) :
    placeWord s n w =
      { s with moves := .hostWrite { offset := 0, width := 4 } (BitVec.ofNat 32 w) :: s.moves } := by
  simp only [placeWord, hd, actionOf_hostWord (isHostWord_decodeHost _)]
  cases decodeHost (BitVec.ofNat 32 w) <;> rfl

theorem placeWord_fbWord {s : State} {n w : Nat} (hh : hostWordLegal (BitVec.ofNat 32 w) = false)
    (hd : decodeTableWord n w = some (decodeFb (BitVec.ofNat 32 w))) :
    placeWord s n w = { s with moves := .fbRequest (BitVec.ofNat 32 w) :: s.moves } := by
  simp only [placeWord, hd, actionOf_fbWord (isFbWord_decodeFb _), (decodeHost_eq_illegal_iff _).mpr hh]
  rcases isFbWord_decodeFb (BitVec.ofNat 32 w) with ⟨c, e⟩ | ⟨k, on, e⟩ | ⟨k, e⟩ | ⟨v, e⟩ <;> rw [e]

/-- Settles O7: the placed move is the word's write or request, or SEQ's own step at the placed action. -/
theorem placedWordRuns : Obligations.PlacedWordRuns := by
  refine ⟨fun s w i hd => ?_, fun s w i hd => ?_⟩
  · change step (placeWord s 32 w) = _
    have htable : i = decodeTableWord32 (BitVec.ofNat 32 w) := (Option.some.inj hd).symm
    rcases decodeTableWord32_cases (BitVec.ofNat 32 w) with e | ⟨hh, e⟩ <;> rw [e] at htable <;> subst htable
    · rw [placeWord_hostWord hd, step_cons rfl]
      rfl
    · rw [placeWord_fbWord hh hd, step_cons rfl]
      rfl
  · obtain ⟨e, he⟩ := decodeTableByte_encode (c := BitVec.ofNat 8 w) hd
    obtain ⟨a, ha⟩ := actionOf_of_encode_unit he s
    refine ⟨a, ?_⟩
    change step (placeWord s 8 w) = _
    rw [placeWord_unit hd ha, step_cons rfl]
    exact sequencer_of_actionInstr (a := a) (by simp) rfl (actionInstr_actionOf ha)

end Sys2Proof.Machine
end

section
/-! The FB of a harness: what each request answers (40_framebuffer.md R100 to R102, R105), and the laws of setting bits
(R104). An FB in canonical form is its CAP and its bits, so that equal bits make FBs equal. -/

namespace Sys2Proof.Machine

open Sys2Proof.Expected

/-! ### An FB is known by its bits -/

/-- Bytes that have the same bits, each where the other has a value, are equal. -/
theorem read_eq_of_bitAt {m n : Memory} (h : ∀ i, bitAt m i = bitAt n i) (k : Nat) : m.read k = n.read k := by
  have hbit (p : Nat) (hp : p < 8) : (m.read k).map (·.getLsbD p) = (n.read k).map (·.getLsbD p) := by
    have := h (8 * k + p)
    rwa [bitAt, bitAt, show (8 * k + p) / 8 = k by omega, show (8 * k + p) % 8 = p by omega] at this
  cases hm : m.read k <;> cases hn : n.read k <;> simp only [hm, hn, Option.map_some, Option.map_none] at hbit
  case none.none => rfl
  case none.some => exact absurd (hbit 0 (by omega)) (by simp)
  case some.none => exact absurd (hbit 0 (by omega)) (by simp)
  case some.some u v => exact congrArg some (BitVec.eq_of_getLsbD_eq fun p hp => Option.some.inj (hbit p hp))

theorem Fb.ext_bitAt {fb fb' : Fb} (hcap : fb.cap = fb'.cap) (hwf : fb.bytes.wf = true) (hwf' : fb'.bytes.wf = true)
    (h : ∀ i, bitAt fb.bytes i = bitAt fb'.bytes i) : fb = fb' := by
  obtain ⟨cap, bytes⟩ := fb
  obtain ⟨cap', bytes'⟩ := fb'
  obtain rfl : cap = cap' := hcap
  rw [Memory.ext_read bytes bytes' hwf hwf' (read_eq_of_bitAt h)]

/-! ### Setting a bit below CAP -/

/-- Below CAP, FB_SET_BIT is FbWriteBit on the bytes (40_framebuffer.md R101). -/
theorem setBit_of_lt {fb : Fb} {i : Nat} (hs : FbSound fb) (hi : i < fb.cap.toNat) (on : Bool) :
    ∃ m, fbWriteBit fb.bytes i on = .ok m ∧ fb.setBit i on = .ok (.ok, { fb with bytes := m }) := by
  rcases Fb.setBit_sound fb i on hs with ⟨hcap, -⟩ | ⟨-, old, hold, hbound, hset⟩
  · omega
  · exact ⟨_, fbWriteBit_of_read _ _ _ old hbound hold, hset⟩

/-- Below CAP, FB_SET_BIT answers the one canonical FB that has the same CAP, the value in bit i and the other bits as
they were. -/
theorem setBit_eq_ok_iff {fb fb' : Fb} {i : Nat} {on : Bool} (hs : FbSound fb) (hi : i < fb.cap.toNat) :
    fb.setBit i on = .ok (.ok, fb') ↔
      fb'.cap = fb.cap ∧ fb'.bytes.wf = true ∧
        ∀ j, bitAt fb'.bytes j = if j = i then some on else bitAt fb.bytes j := by
  obtain ⟨m, hwrite, hset⟩ := setBit_of_lt hs hi on
  have hbits := bitAt_fbWriteBit hwrite
  have hwf : m.wf = true := (hs.setBit hset).canonical
  constructor
  · intro h
    obtain rfl : { fb with bytes := m } = fb' := congrArg Prod.snd (Except.ok.inj (hset.symm.trans h))
    exact ⟨rfl, hwf, hbits⟩
  · rintro ⟨hcap, hwf', hbits'⟩
    rw [hset, Fb.ext_bitAt (fb := { fb with bytes := m }) hcap.symm hwf hwf' fun j => by rw [hbits, hbits']]

/-! ### The laws of setting bits (40_framebuffer.md R104) -/

section
variable {fb fb1 : Fb} {i : Nat} {b : Bool} (hs : FbSound fb) (hi : i < fb.cap.toNat)
  (h : fb.setBit i b = .ok (.ok, fb1))
include hs hi h

theorem setBit_idempotent : fb1.setBit i b = .ok (.ok, fb1) := by
  obtain ⟨hcap, hwf, hbits⟩ := (setBit_eq_ok_iff hs hi).mp h
  refine (setBit_eq_ok_iff (hs.setBit h) (hcap ▸ hi)).mpr ⟨rfl, hwf, fun k => ?_⟩
  rw [hbits]
  split <;> rfl

/-- Writing back the value that a bit had restores the FB. -/
theorem setBit_restores {old : Bool} (hold : bitAt fb.bytes i = some old) : fb1.setBit i old = .ok (.ok, fb) := by
  obtain ⟨hcap, -, hbits⟩ := (setBit_eq_ok_iff hs hi).mp h
  refine (setBit_eq_ok_iff (hs.setBit h) (hcap ▸ hi)).mpr ⟨hcap.symm, hs.canonical, fun k => ?_⟩
  by_cases hk : k = i
  · rw [if_pos hk, hk, hold]
  · rw [if_neg hk, hbits, if_neg hk]

theorem setBit_comm {j : Nat} (hj : j < fb.cap.toNat) (hne : i ≠ j) (c : Bool) :
    ∃ fb2 fb3, fb.setBit j c = .ok (.ok, fb2) ∧ fb1.setBit j c = .ok (.ok, fb3) ∧
      fb2.setBit i b = .ok (.ok, fb3) := by
  obtain ⟨hcap1, -, hbits1⟩ := (setBit_eq_ok_iff hs hi).mp h
  have hs1 := hs.setBit h
  have hj1 : j < fb1.cap.toNat := hcap1 ▸ hj
  obtain ⟨m2, -, h2⟩ := setBit_of_lt hs hj c
  obtain ⟨m3, -, h3⟩ := setBit_of_lt hs1 hj1 c
  obtain ⟨-, -, hbits2⟩ := (setBit_eq_ok_iff hs hj).mp h2
  obtain ⟨-, hwf3, hbits3⟩ := (setBit_eq_ok_iff hs1 hj1).mp h3
  refine ⟨_, _, h2, h3, (setBit_eq_ok_iff (hs.setBit h2) hi).mpr ⟨hcap1, hwf3, fun k => ?_⟩⟩
  rw [hbits3, hbits1, hbits2]
  by_cases hk : k = i
  · rw [if_neg (hk.trans_ne hne), if_pos hk, if_pos hk]
  · rw [if_neg hk, if_neg hk]

end

/-- Settles O36: each law by the bits that its two sides have. -/
theorem setBitLaws : Obligations.SetBitLaws := fun _ _ _ _ c _ hs hi hj h =>
  ⟨setBit_idempotent hs hi h, fun hclear _ => setBit_restores hs hi h hclear, fun hne => setBit_comm hs hi h hj hne c⟩

/-! ### The answers to a request -/

/-- A capacity that FB_CREATE accepts fits the 16 bits of CAP. -/
theorem toNat_ofNat_capacity {c : Nat} (h : c ≤ Config.fbMaxBits) : (BitVec.ofNat 16 c).toNat = c :=
  (BitVec.toNat_ofNat c 16).trans (Nat.mod_eq_of_lt (Nat.lt_of_le_of_lt h (by decide)))

/-- Settles O32: the two answers of FB_CREATE. -/
theorem fbCreateResult : Obligations.FbCreateResult := by
  intro s c
  have hmax : Config.fbMaxBits = 65024 := rfl
  rcases Fb.create_cases s.alone.fb c.toNat with ⟨hbad, hcreate⟩ | ⟨hwhole, hfits, hcreate⟩
  · rw [hmax] at hbad
    rw [if_pos hbad]
    exact exec_fbCreate_answer hcreate
  · have hgood : ¬(c.toNat % 8 ≠ 0 ∨ c.toNat > 65024) := by omega
    rw [if_neg hgood]
    exact ⟨_, toNat_ofNat_capacity hfits, Memory.read_clear _ _, exec_fbCreate_answer hcreate⟩

/-- Settles O33: an index at or above CAP is refused, and one below it is a bit write. -/
theorem fbSetBitResult : Obligations.FbSetBitResult := by
  intro s i on hs
  by_cases hi : i.toNat ≥ s.alone.fb.cap.toNat
  · rw [if_pos hi]
    rcases Fb.setBit_sound s.alone.fb i.toNat on hs with ⟨-, hset⟩ | ⟨hlt, -⟩
    · exact exec_fbSetBit_answer hset
    · omega
  · rw [if_neg hi]
    obtain ⟨m, hwrite, hset⟩ := setBit_of_lt hs (Nat.lt_of_not_le hi) on
    exact ⟨m, bitAt_fbWriteBit hwrite, exec_fbSetBit_answer hset⟩

/-- Settles O34: the two answers of FB_READ on a sound FB. -/
theorem fbReadResult : Obligations.FbReadResult := by
  intro s k hs
  rcases Fb.readByte_sound s.alone.fb k.toNat hs with ⟨hbeyond, hread⟩ | ⟨hlt, v, hvalue, hread⟩
  · rw [if_pos hbeyond]
    exact exec_fbRead_none hread
  · rw [if_neg (Nat.not_le.mpr hlt)]
    exact ⟨v, hvalue, exec_fbRead_some hread⟩

/-! ### A request that fails -/

/-- The requests that change the FB answer OK; every other answer leaves it. -/
theorem RequestEffect.fb_eq_of_code_ne_zero {i : Instr} {s t : State} (e : RequestEffect i s t)
    (h : t.alone.code ≠ 0#4) : t.alone.fb = s.alone.fb := by
  cases e with
  | answered c d => rfl
  | created c word whole fits => exact absurd rfl h
  | bitSet k on fb word set => exact absurd rfl h

/-- Settles O37: the three codes of a failure are not OK. -/
theorem failedRequestChangesNothing : Obligations.FailedRequestChangesNothing := by
  intro s t w h hcode
  refine (exec_fbWord_effect (isFbWord_decodeFb w) h).fb_eq_of_code_ne_zero ?_
  rcases hcode with hc | hc | hc <;> rw [hc] <;> decide

end Sys2Proof.Machine
end

section
/-! The host's command words: a word that is lost, and what each word does while READY is 1 (41_panel_controller.md R120
to R128). -/

namespace Sys2Proof.Machine

open Sys2Proof.Expected

/-! ### Ending an operation -/

/-- `complete` with a result is the end of an operation with the result's number (41_panel_controller.md R131). -/
theorem complete_eq_finished (c : ResultCode) (s : State) : complete c s = finished c.bits s := rfl

/-- An idle sequencer of a sound block is already as the end of an operation leaves it. -/
theorem finished_cleared_seq {s : State} (h : BlockInv s) (hr : s.status.ready = true) (c : BitVec 4) :
    (finished c (cleared s)).seq = s.seq := by
  have hp := h.ready_idle.mp hr
  obtain ⟨hop, hstep, hacts⟩ := h.idle_clear hp
  simp only [finished, cleared, ← hp, ← hop, ← hstep, ← hacts]

/-! ### A word that is lost -/

theorem exec_hostWord_lost {i : Instr} {s : State} (hi : isHostWord i) (hr : s.status.ready = false) :
    exec i s = .next { s with status := s.status.lost } := by
  rcases hi with (⟨w, h, rfl⟩ | ⟨x, y, on, rfl⟩ | ⟨k, rfl⟩ | ⟨w, rfl⟩) | rfl | rfl | rfl | rfl
  · exact command_busy (createBody w h) s hr
  · exact command_busy (setpixBody x y on) s hr
  · exact command_busy (readfbBody k) s hr
  · exact command_busy (fun s => .ok (complete .illegalOp s)) s hr
  · exact command_busy (flushBody .full) s hr
  · exact command_busy (flushBody .partial_) s hr
  · exact command_busy (fun s => .ok (launch 4#3 (ponActs s.rom) s)) s hr
  · exact command_busy (fun s => .ok (launch 5#3 (poffActs s.rom) s)) s hr

/-- Settles O17: every word decodes to a host instruction, and a lost one only sets CL. -/
theorem lostCommandSetsCl : Obligations.LostCommandSetsCl := by
  refine ⟨fun s i hi hr => exec_hostWord_lost hi hr, fun s w rest hm hr => ?_⟩
  rw [step_cons hm]
  exact exec_hostWord_lost (s := { s with moves := rest }) (isHostWord_decodeHost w) hr

/-! ### A word that is accepted -/

/-- An accepted word is its body on the cleared state (41_panel_controller.md R120). -/
theorem command_eq_of_body {body : State → Except Fault State} {s t : State} (hr : s.status.ready = true)
    (h : body (cleared s) = .ok t) : command body s = .next t := by
  rw [command_ready body s hr]
  change outcome (body (cleared s)) = .next t
  rw [h]
  rfl

/-- Settles O23: the body of an illegal word is its completion. -/
theorem illegalWordCompletes : Obligations.IllegalWordCompletes := fun _ _ hr =>
  ⟨command_eq_of_body (body := fun s => .ok (complete .illegalOp s)) hr rfl, rfl, rfl, rfl,
    fun h => finished_cleared_seq h hr _⟩

/-- Settles O22: the bodies start their lists and keep MODE. -/
theorem powerOperationsStart : Obligations.PowerOperationsStart := fun _ hr =>
  ⟨command_eq_of_body (body := fun s => .ok (launch 4#3 (ponActs s.rom) s)) hr rfl,
    command_eq_of_body (body := fun s => .ok (launch 5#3 (poffActs s.rom) s)) hr rfl⟩

/-! ### CREATE, SETPIX, READFB and FLUSH by their checks -/

/-- The words that need a configuration fail first when there is none (41_panel_controller.md R123 to R125). -/
theorem exec_notConfigured {i : Instr} {s : State} (hr : s.status.ready = true) (hc : s.cfg.configured = false)
    (hi : (∃ x y on, i = .setpix x y on) ∨ (∃ k, i = .readfb k) ∨ i = .flushFull ∨ i = .flushPartial) :
    exec i s = .next (finished 6#4 (cleared s)) := by
  rcases hi with ⟨x, y, on, rfl⟩ | ⟨k, rfl⟩ | rfl | rfl <;> exact command_eq_of_body hr (if_pos hc)

/-- A configured FLUSH latches its mode and starts that mode's list (41_panel_controller.md R125). -/
theorem flushBody_configured {s : State} (hc : s.cfg.configured = true) (m : Mode) :
    flushBody m s = .ok (started 3#3 m (flushActs s.rom m s.cfg.w s.cfg.h) s) :=
  if_neg (by simp [hc])

/-- Settles O21: NotConfigured, or the list of the word's mode. -/
theorem flushStarts : Obligations.FlushStarts := fun s hr =>
  ⟨fun hc => ⟨exec_notConfigured hr hc (by simp), exec_notConfigured hr hc (by simp)⟩,
    fun hc => ⟨command_eq_of_body hr (flushBody_configured (s := cleared s) hc .full),
      command_eq_of_body hr (flushBody_configured (s := cleared s) hc .partial_)⟩⟩

theorem eq_zero_iff_toNat {n : Nat} (v : BitVec n) : v = 0#n ↔ v.toNat = 0 := by
  rw [← BitVec.toNat_inj, BitVec.toNat_ofNat, Nat.zero_mod]

/-- Of the areas that are whole bytes, every one fits the storage: 255 * 255 is odd. -/
theorem area_le_fbMaxBits {w h : BitVec 8} (h8 : w.toNat * h.toNat % 8 = 0) :
    w.toNat * h.toNat ≤ Config.fbMaxBits := by
  have harea : w.toNat * h.toNat ≤ 255 * 255 := Nat.mul_le_mul (Nat.le_of_lt_succ w.isLt) (Nat.le_of_lt_succ h.isLt)
  have hmax : Config.fbMaxBits = 65024 := rfl
  omega

theorem createBody_invalid {w h : BitVec 8} (hbad : w.toNat = 0 ∨ h.toNat = 0 ∨ w.toNat * h.toNat % 8 ≠ 0) (s : State) :
    createBody w h s = .ok (complete .invalidSize s) := by
  unfold createBody
  by_cases hz : w = 0#8 ∨ h = 0#8
  · rw [if_pos hz]
  · rw [if_neg hz]
    rcases Fb.create_cases s.fb (w.toNat * h.toNat) with ⟨-, e⟩ | ⟨hwhole, -, -⟩
    · rw [e]
    · simp only [eq_zero_iff_toNat] at hz
      omega

theorem createBody_valid {w h : BitVec 8} (hw : w.toNat ≠ 0) (hh : h.toNat ≠ 0) (h8 : w.toNat * h.toNat % 8 = 0)
    (s : State) : createBody w h s = .ok (complete .ok { s with
      fb := { cap := BitVec.ofNat 16 (w.toNat * h.toNat), bytes := s.fb.bytes.clear (w.toNat * h.toNat / 8) }
      cfg := { configured := true, w := w, h := h }
      status := { s.status with configured := true } }) := by
  have hpos : ¬(w = 0#8 ∨ h = 0#8) := by
    rw [eq_zero_iff_toNat, eq_zero_iff_toNat]
    exact not_or.mpr ⟨hw, hh⟩
  have hfits := area_le_fbMaxBits h8
  rw [createBody, if_neg hpos]
  rcases Fb.create_cases s.fb (w.toNat * h.toNat) with ⟨hbad, -⟩ | ⟨-, -, e⟩
  · omega
  · rw [e]

/-- Settles O18: the size that is refused, and the size whose area is the new CAP. -/
theorem createResult : Obligations.CreateResult := by
  intro s w h hr
  split
  · next hbad => exact command_eq_of_body hr (createBody_invalid hbad (cleared s))
  · next hgood =>
    obtain ⟨hw, hh, h8⟩ : w.toNat ≠ 0 ∧ h.toNat ≠ 0 ∧ w.toNat * h.toNat % 8 = 0 := by omega
    exact ⟨_, toNat_ofNat_mul_of_le (area_le_fbMaxBits h8), Memory.read_clear _ _,
      command_eq_of_body hr (createBody_valid hw hh h8 (cleared s))⟩

/-- A configured SETPIX inside the bounds is FB_SET_BIT at the pixel's index (41_panel_controller.md R123). -/
theorem setpixBody_setBit {s : State} {x y : BitVec 8} {on : Bool} {r : ResultCode} {fb : Fb}
    (hc : s.cfg.configured = true) (hx : x.toNat ≤ s.cfg.w.toNat) (hy : y.toNat ≤ s.cfg.h.toNat)
    (hset : s.fb.setBit (pixelIndex s.xmax x y) on = .ok (r, fb)) :
    setpixBody x y on s = .ok (complete r { s with fb := fb }) := by
  rw [setpixBody, if_neg (by simp [hc]), if_neg (by omega), hset]

section
variable {s : State} {x y : BitVec 8} (hr : s.status.ready = true) (hc : s.cfg.configured = true)
  (hx : x.toNat ≤ s.cfg.w.toNat) (hy : y.toNat ≤ s.cfg.h.toNat)
include hr hc hx hy

theorem exec_setpix_setBit {on : Bool} {r : ResultCode} {fb : Fb}
    (hset : s.fb.setBit (pixelIndex s.xmax x y) on = .ok (r, fb)) :
    exec (.setpix x y on) s = .next (finished r.bits { cleared s with fb := fb }) :=
  command_eq_of_body hr (setpixBody_setBit (s := cleared s) hc hx hy hset)

theorem exec_setpix_invalidIndex (hi : pixelIndex s.xmax x y ≥ s.fb.cap.toNat) (on : Bool) :
    exec (.setpix x y on) s = .next (finished 2#4 (cleared s)) :=
  exec_setpix_setBit hr hc hx hy (if_pos hi)

end

theorem setpixBody_outOfBounds {s : State} {x y : BitVec 8} (hc : s.cfg.configured = true)
    (hxy : x.toNat > s.cfg.w.toNat ∨ y.toNat > s.cfg.h.toNat) (on : Bool) :
    setpixBody x y on s = .ok (complete .outOfBounds s) := by
  rw [setpixBody, if_neg (by simp [hc]), if_pos hxy]

/-- Settles O19: the checks of SETPIX in their order, and the bit write below CAP. -/
theorem setpixResult : Obligations.SetpixResult := by
  intro s x y on hr hs
  split
  · next hc => exact exec_notConfigured hr hc (by simp)
  · next hc =>
    rw [Bool.not_eq_false] at hc
    split
    · next hxy => exact command_eq_of_body hr (setpixBody_outOfBounds (s := cleared s) hc hxy on)
    · next hxy =>
      obtain ⟨hx, hy⟩ : x.toNat ≤ s.cfg.w.toNat ∧ y.toNat ≤ s.cfg.h.toNat := by omega
      split
      · next hi => exact exec_setpix_invalidIndex hr hc hx hy hi on
      · next hi =>
        obtain ⟨m, hwrite, hset⟩ := setBit_of_lt hs (Nat.lt_of_not_le hi) on
        exact ⟨m, bitAt_fbWriteBit hwrite, exec_setpix_setBit hr hc hx hy hset⟩

theorem readfbBody_none {s : State} {k : BitVec 13} (hc : s.cfg.configured = true)
    (hread : s.fb.readByte k.toNat = .ok none) : readfbBody k s = .ok (complete .invalidIndex s) := by
  rw [readfbBody, if_neg (by simp [hc]), hread]

theorem readfbBody_some {s : State} {k : BitVec 13} {v : Byte} (hc : s.cfg.configured = true)
    (hread : s.fb.readByte k.toNat = .ok (some v)) :
    readfbBody k s = .ok (complete .ok { s with status := { s.status with rdata := v } }) := by
  rw [readfbBody, if_neg (by simp [hc]), hread]

/-- Settles O20: the two answers of FB_READ on a sound FB. -/
theorem readfbResult : Obligations.ReadfbResult := by
  intro s k hr hs
  split
  · next hc => exact exec_notConfigured hr hc (by simp)
  · next hc =>
    rw [Bool.not_eq_false] at hc
    rcases Fb.readByte_sound s.fb k.toNat hs with ⟨hbeyond, hread⟩ | ⟨hlt, v, hvalue, hread⟩
    · rw [if_pos hbeyond]
      exact command_eq_of_body hr (readfbBody_none (s := cleared s) hc hread)
    · rw [if_neg (Nat.not_le.mpr hlt)]
      exact ⟨v, hvalue, command_eq_of_body hr (readfbBody_some (s := cleared s) hc hread)⟩

/-! ### Precise errors -/

/-- Settles O25: a word that ends with a code other than 0 is one that `complete` ended on the cleared state; the others
end with OK or start with CODE 0. -/
theorem hostErrorsArePrecise : Obligations.HostErrorsArePrecise := by
  intro s t i h hi hr hexec hcode
  cases exec_hostWord_effect hi hexec with
  | lost busy => simp [hr] at busy
  | ended c ready =>
    have hseq := finished_cleared_seq h hr c.bits
    rw [complete_eq_finished]
    calc finished c.bits (cleared s)
      _ = { finished c.bits (cleared s) with seq := s.seq } := by rw [← hseq]
      _ = _ := by simp only [finished, cleared, hr]
  | created w h' ready word wpos hpos whole fits => exact absurd rfl hcode
  | pixelSet x y on fb ready word set => exact absurd rfl hcode
  | byteRead v ready => exact absurd rfl hcode
  | launched op m acts ready known flush built => exact absurd rfl hcode

/-! ### The panel port -/

/-- The state with other port signals. -/
def withPort (p : Port) (s : State) : State := { s with port := p }

/-- A body that does not look at the port: with other signals it does the same. -/
def IgnoresPort (body : State → Except Fault State) : Prop :=
  ∀ (s t : State) (p : Port), body s = .ok t → body (withPort p s) = .ok (withPort p t)

theorem command_withPort {body : State → Except Fault State} (hb : IgnoresPort body) {s t : State} (p : Port)
    (h : command body s = .next t) : command body (withPort p s) = .next (withPort p t) := by
  rcases command_next body s t h with ⟨hr, hbody⟩ | ⟨hr, rfl⟩
  · exact command_eq_of_body (s := withPort p s) hr (hb (cleared s) t p hbody)
  · exact command_busy body (withPort p s) hr

theorem createBody_ignoresPort (w h : BitVec 8) : IgnoresPort (createBody w h) := by
  intro s t p hb
  by_cases hbad : w.toNat = 0 ∨ h.toNat = 0 ∨ w.toNat * h.toNat % 8 ≠ 0
  · rw [createBody_invalid hbad] at hb ⊢
    cases hb
    rfl
  · obtain ⟨hw, hh, h8⟩ : w.toNat ≠ 0 ∧ h.toNat ≠ 0 ∧ w.toNat * h.toNat % 8 = 0 := by omega
    rw [createBody_valid hw hh h8] at hb ⊢
    cases hb
    rfl

theorem setpixBody_ignoresPort (x y : BitVec 8) (on : Bool) : IgnoresPort (setpixBody x y on) := by
  intro s t p hb
  unfold setpixBody at hb
  split at hb
  · next hc => cases hb; exact if_pos hc
  · next hc =>
    rw [Bool.not_eq_false] at hc
    split at hb
    · next hxy => cases hb; exact setpixBody_outOfBounds (s := withPort p s) hc hxy on
    · next hxy =>
      obtain ⟨hx, hy⟩ : x.toNat ≤ s.cfg.w.toNat ∧ y.toNat ≤ s.cfg.h.toNat := by omega
      split at hb
      · next r fb hset =>
        cases hb
        exact setpixBody_setBit (s := withPort p s) hc hx hy hset
      · cases hb

theorem readfbBody_ignoresPort (k : BitVec 13) : IgnoresPort (readfbBody k) := by
  intro s t p hb
  unfold readfbBody at hb
  split at hb
  · next hc => cases hb; exact if_pos hc
  · next hc =>
    rw [Bool.not_eq_false] at hc
    split at hb
    · next v hread => cases hb; exact readfbBody_some (s := withPort p s) hc hread
    · next hread => cases hb; exact readfbBody_none (s := withPort p s) hc hread
    · cases hb

/-- With other port signals a buffer word does the same (41_panel_controller.md R135). -/
theorem exec_bufferWord_withPort {i : Instr} {s t : State} (hi : isBufferWord i) (p : Port) (h : exec i s = .next t) :
    exec i (withPort p s) = .next (withPort p t) := by
  rcases hi with ⟨w, h', rfl⟩ | ⟨x, y, on, rfl⟩ | ⟨k, rfl⟩ | ⟨w, rfl⟩
  · exact command_withPort (createBody_ignoresPort w h') p h
  · exact command_withPort (setpixBody_ignoresPort x y on) p h
  · exact command_withPort (readfbBody_ignoresPort k) p h
  · exact command_withPort (body := fun s => .ok (complete .illegalOp s)) (fun _ _ _ hb => by cases hb; rfl) p h

/-- Settles O24: no host word writes the trace or the port, and the buffer words do not look at the port. -/
theorem bufferWordsIgnoreThePanel : Obligations.BufferWordsIgnoreThePanel := by
  intro s t i p hi h
  have hframe := (exec_hostWord_effect (.inl hi) h).frame
  exact ⟨by rw [hframe], by rw [hframe], exec_bufferWord_withPort hi p h⟩

end Sys2Proof.Machine
end

section
/-! The arithmetic of the block (41_panel_controller.md R132), the laws of SETPIX (R133), what the step of a unit leaves
unchanged, and a CTRL write beside a poll (60_exceptions.md R208). -/

namespace Sys2Proof.Machine

open Sys2Proof.Expected

/-! ### Sizes -/

/-- XB is W div 8 rounded up. -/
theorem rowBytes_eq (w : BitVec 8) : rowBytes w = (w.toNat + 7) / 8 :=
  Nat.mul_div_cancel _ (by decide)

theorem rowBytes_of_aligned {w : BitVec 8} (h8 : w.toNat % 8 = 0) : rowBytes w = w.toNat / 8 := by
  rw [rowBytes_eq]
  omega

theorem rowBytes_of_unaligned {w : BitVec 8} (h8 : w.toNat % 8 ≠ 0) : rowBytes w = w.toNat / 8 + 1 := by
  rw [rowBytes_eq]
  omega

theorem toNat_lastColumn {w : BitVec 8} (hw : 1 ≤ w.toNat) : (lastColumn w).toNat + 1 = rowBytes w := by
  have hlt := w.isLt
  rw [lastColumn, lo8_eq_ofNat, BitVec.toNat_ofNat, rowBytes_eq]
  omega

theorem toNat_lastRowLow {h : BitVec 8} (hh : 1 ≤ h.toNat) : (lastRowLow h).toNat + 1 = h.toNat := by
  have hlt := h.isLt
  rw [lastRowLow_eq, BitVec.toNat_ofNat]
  omega

theorem pixelIndex_lt (xmax : BitVec 16) (x y : BitVec 8) : pixelIndex xmax x y < 2 ^ 24 := by
  rw [← toNat_ofNat_pixelIndex]
  exact BitVec.isLt _

/-- Settles O39: W and H are bytes, and XB - 1 and H - 1 fit a byte. -/
theorem arithmeticRanges : Obligations.ArithmeticRanges := by
  intro xmax x y w h
  have hrow (hw : 1 ≤ w.toNat) : 1 ≤ rowBytes w ∧ rowBytes w ≤ 32 := by
    have hlt := w.isLt
    rw [rowBytes_eq]
    omega
  refine ⟨pixelIndex_lt xmax x y, fun hw => ⟨(hrow hw).1, (hrow hw).2, toNat_lastColumn hw⟩, fun hw hh => ?_,
    lastRowHigh_eq_zero h, toNat_lastRowLow⟩
  obtain ⟨hpos, hle⟩ := hrow hw
  exact ⟨Nat.mul_le_mul hpos hh, Nat.mul_le_mul hle (Nat.le_of_lt_succ h.isLt)⟩

/-- Where a row is whole bytes, so is the transfer: N is the buffer (42_command_protocol.md R157). -/
theorem transferBytes_of_aligned {w : BitVec 8} (h8 : w.toNat % 8 = 0) (h : BitVec 8) :
    transferBytes w h = w.toNat * h.toNat / 8 := by
  rw [transferBytes, rowBytes_of_aligned h8, Nat.div_mul_right_comm (Nat.dvd_of_mod_eq_zero h8)]

/-- Where a row is no whole bytes, N counts its last byte in every row and exceeds the buffer (42_command_protocol.md
R157). -/
theorem area_div_lt_transferBytes {w h : BitVec 8} (h8 : w.toNat % 8 ≠ 0) (hh : 1 ≤ h.toNat) :
    w.toNat * h.toNat / 8 < transferBytes w h := by
  have hw : w.toNat < rowBytes w * 8 := by
    rw [rowBytes_of_unaligned h8]
    omega
  refine Nat.div_lt_of_lt_mul ?_
  calc w.toNat * h.toNat
    _ < rowBytes w * 8 * h.toNat := Nat.mul_lt_mul_of_pos_right hw hh
    _ = 8 * transferBytes w h := by rw [transferBytes, Nat.mul_comm (rowBytes w) 8, Nat.mul_assoc]

/-- What a configured block holds (10_state.md R35, 2). -/
theorem BlockInv.configured_size {s : State} (h : BlockInv s) (hc : s.cfg.configured = true) :
    s.fb.cap.toNat = s.cfg.w.toNat * s.cfg.h.toNat ∧ 1 ≤ s.cfg.w.toNat ∧ 1 ≤ s.cfg.h.toNat := by
  obtain ⟨-, hset, -, -, -⟩ := h.five
  exact hset hc

/-! ### Laws of SETPIX -/

/-- The place of a pixel when a row is W bits and whole bytes. -/
theorem pixelIndex_place {xmax : BitVec 16} {w x : BitVec 8} (hxmax : xmax.toNat = w.toNat) (h8 : w.toNat % 8 = 0)
    (y : BitVec 8) :
    pixelIndex xmax x y / 8 = y.toNat * (w.toNat / 8) + x.toNat / 8 ∧ pixelIndex xmax x y % 8 = x.toNat % 8 := by
  have hrow : pixelIndex xmax x y = 8 * (y.toNat * (w.toNat / 8)) + x.toNat := by
    rw [pixelIndex, hxmax, Nat.mul_left_comm, Nat.mul_div_cancel' (Nat.dvd_of_mod_eq_zero h8)]
  omega

/-- A pixel of a row above row H lies in the buffer when a row is W bits. -/
theorem pixelIndex_lt_area {xmax : BitVec 16} {w h x y : BitVec 8} (hxmax : xmax.toNat = w.toNat)
    (hx : x.toNat < w.toNat) (hy : y.toNat < h.toNat) : pixelIndex xmax x y < w.toNat * h.toNat := by
  calc pixelIndex xmax x y
    _ < (y.toNat + 1) * w.toNat := by rw [pixelIndex, hxmax, Nat.succ_mul]; omega
    _ ≤ w.toNat * h.toNat := by rw [Nat.mul_comm]; exact Nat.mul_le_mul_left _ hy

/-- Settles O40: row H begins at or after CAP, and a pixel above it is one bit of its byte. -/
theorem setpixLaws : Obligations.SetpixLaws := by
  intro s x y on h hr hc
  obtain ⟨hcap, -, -⟩ := h.configured_size hc
  refine ⟨fun hxmax hx => ?_, fun hxmax h8 hx hy => ?_⟩
  · have hrow : s.fb.cap.toNat ≤ s.cfg.h.toNat * s.xmax.toNat := by
      rw [hcap, Nat.mul_comm]
      exact Nat.mul_le_mul_left _ hxmax
    exact exec_setpix_invalidIndex hr hc hx le_rfl (hrow.trans (Nat.le_add_right _ _)) on
  · obtain ⟨hbyte, hbit⟩ := pixelIndex_place (x := x) hxmax h8 y
    have hlt : pixelIndex s.xmax x y < s.fb.cap.toNat := hcap ▸ pixelIndex_lt_area hxmax hx hy
    rcases Fb.setBit_sound s.fb (pixelIndex s.xmax x y) on h.fb with ⟨hge, -⟩ | ⟨-, old, hold, -, hset⟩
    · omega
    · rw [← hbyte, ← hbit]
      refine ⟨_, old, exec_setpix_setBit hr hc hx.le hy.le hset, hold, setBitIn old (pixelIndex s.xmax x y) on, ?_,
        setBitIn_getLsbD old _ on⟩
      exact (Memory.read_write _ _ _ _).trans (if_pos rfl)

/-! ### What the step of a unit leaves unchanged -/

/-- What a unit's step leaves unchanged: the state with the fields that such a step may write blanked. -/
def framed (s : State) : State :=
  { s with
    status := { s.status with ready := false, wc := false, code := 0#4 }
    seq := { phase := .idle, op := 0#3, mode := s.seq.mode, step := 0#5, acts := [] }
    port := { s.port with req := false, reqCmd := 0x00#8, reqData := [] }
    trace := [] }

@[simp] theorem framed_complete (c : ResultCode) (s : State) : framed (complete c s) = framed s := rfl

@[simp] theorem framed_setPhase (p : Phase) (s : State) : framed (setPhase p s) = framed s := rfl

@[simp] theorem framed_sendUnit (u : PanelUnit) (s : State) : framed (sendUnit u s) = framed s := rfl

@[simp] theorem framed_answered (e : PanelEvent) (s : State) : framed (answered e s) = framed s := rfl

@[simp] theorem framed_advance (s : State) : framed (advance s) = framed s := by
  rcases advance_cases s with ⟨n, e⟩ | e <;> rw [e] <;> rfl

theorem framed_poll {proceed : State → State} (h : ∀ s, framed (proceed s) = framed s) (s : State) :
    framed (poll proceed s) = framed s := by
  rcases poll_cases proceed s with ⟨-, e⟩ | ⟨-, -, e⟩ | ⟨-, -, e⟩ <;> rw [e]
  · exact h s
  · exact h { s with status := s.status.cutShort }

theorem framed_takeAnswer (s : State) : framed (takeAnswer s) = framed s := by
  rcases takeAnswer_cases s with ⟨-, e⟩ | ⟨-, e⟩ | ⟨-, e⟩ <;> simp [e]

theorem unitStep_framed {u : PanelUnit} {s t : State} (h : unitStep u s = .next t) : framed t = framed s := by
  rcases unitStep_cases u s with ⟨-, e⟩ | ⟨-, e⟩ | ⟨-, e⟩ | ⟨-, e⟩ | ⟨-, e⟩ <;> rw [e] at h <;> cases h
  · rfl
  · rfl
  · exact framed_poll (framed_setPhase .send) s
  · rfl
  · exact framed_takeAnswer s

/-- WRITE_RAM has the steps of a unit but for the overrun at START and the buffer at SEND (42_command_protocol.md R151,
R156). -/
theorem xferStep_cases {c : Byte} {s t : State} (h : xferStep c s = .next t) :
    t = complete .bufferOverrun s ∨ ∃ u, unitStep u s = .next t := by
  unfold xferStep at h
  unfold unitStep
  cases hp : s.seq.phase <;> simp only [hp] at h
  case idle => exact .inr ⟨⟨c, []⟩, h⟩
  case start =>
    split at h
    · cases h; exact .inl rfl
    · exact .inr ⟨⟨c, []⟩, h⟩
  case wait => exact .inr ⟨⟨c, []⟩, h⟩
  case send =>
    split at h
    · exact .inr ⟨_, h⟩
    · cases h
  case resp => exact .inr ⟨⟨c, []⟩, h⟩

theorem exec_unit_framed {i : Instr} {s t : State} (hi : isUnit i) (h : exec i s = .next t) : framed t = framed s := by
  rcases hi with rfl | ⟨row, rfl⟩
  · rcases xferStep_cases (c := 0x24#8) h with rfl | ⟨u, hu⟩
    · rfl
    · exact unitStep_framed hu
  · rw [exec_rowInstr] at h
    exact unitStep_framed h

/-- Settles O53: the fields of `framed`. -/
theorem unitFrame : Obligations.UnitFrame := by
  intro s t i hi h
  have hframe := exec_unit_framed hi h
  refine ⟨?_, congrArg (·.status.rdata) hframe, congrArg (·.status.configured) hframe, congrArg (·.status.cl) hframe,
    congrArg (·.port.busy) hframe, congrArg (·.port.resp) hframe, congrArg (·.seq.mode) hframe⟩
  exact congrArg (fun u => { u with status := t.status, seq := t.seq, port := t.port, trace := t.trace }) hframe

/-! ### Runs -/

/-- A run of one step more is the run from that step's state. -/
theorem run_succ {s t u : State} {k : Nat} (h : step s = .next t) (hrun : Host.Core.run core k t = .next u) :
    Host.Core.run core (k + 1) s = .next u := by
  have hcore : core.step s = .next t := h
  simp only [Host.Core.run, hcore, hrun]

/-- A write of 1 to CTRL sets CANCEL (41_panel_controller.md R129). -/
theorem step_cancel {s : State} {rest : List Move}
    (hm : s.moves = .hostWrite { offset := 8, width := 4 } 1#32 :: rest) :
    step s = .next { s with moves := rest, cancel := true } :=
  step_cons hm

/-- The move `seq` is SEQ's own step. -/
theorem step_seq {s : State} {rest : List Move} {r : Host.Outcome State Fault Refusal} (hm : s.moves = .seq :: rest)
    (h : sequencer { s with moves := rest } = r) : step s = r :=
  (step_cons hm).trans h

/-- A poll that finds BUSY at 1 goes on, with WC set, only when it finds CANCEL at 1 (42_command_protocol.md R152). -/
theorem poll_busy {s : State} (hbusy : s.port.busy = true) (proceed : State → State) :
    poll proceed s = if s.cancel = true then proceed { s with status := s.status.cutShort } else s := by
  rcases poll_cases proceed s with ⟨hfree, -⟩ | ⟨-, hcancel, e⟩ | ⟨-, hcancel, e⟩
  · simp [hbusy] at hfree
  · rw [e, if_pos hcancel]
  · rw [e, if_neg (by simp [hcancel])]

theorem sequencer_poll_busy {s : State} {row : UnitRow} {u : PanelUnit} (hp : s.seq.phase = .wait)
    (hc : currentAction s = some (.unit row u)) (hbusy : s.port.busy = true) :
    sequencer s = .next (if s.cancel = true then inPhase .send { s with status := s.status.cutShort } else s) := by
  rw [sequencer_unit (by simp [hp]) hc, exec_rowInstr]
  simp only [unitStep, hp, poll_busy hbusy]
  rfl

/-- Settles O30: the poll goes by the value of CANCEL that it finds. -/
theorem cancelAndPollEitherOrder : Obligations.CancelAndPollEitherOrder := by
  intro s row u rest hp hc hbusy hcancel
  constructor
  · have hpoll := sequencer_poll_busy (s := { s with moves := rest, cancel := true }) hp hc hbusy
    exact run_succ (step_cancel rfl) (run_succ (step_seq rfl hpoll) rfl)
  · have hpoll := sequencer_poll_busy
      (s := { s with moves := .hostWrite { offset := 8, width := 4 } 1#32 :: rest }) hp hc hbusy
    rw [if_neg (by simp [hcancel])] at hpoll
    exact run_succ (step_seq rfl hpoll) (run_succ (step_cancel rfl) rfl)

end Sys2Proof.Machine
end

section
/-! Whole operations with a panel that is never busy and answers every unit with OK (42_command_protocol.md R157 to
R169): one action runs from its START to the next action's START, a list of actions runs by induction, and each host
operation is its list. -/

namespace Sys2Proof.Machine

open Sys2Proof.Expected

/-! ### Runs of several steps -/

theorem run_add {m n : Nat} {s t u : State} (hm : Host.Core.run core m s = .next t)
    (hn : Host.Core.run core n t = .next u) : Host.Core.run core (m + n) s = .next u := by
  induction m generalizing s with
  | zero =>
    cases hm
    rwa [Nat.zero_add]
  | succ m ih =>
    cases hstep : step s with
    | next v =>
      have hcore : core.step s = .next v := hstep
      simp only [Host.Core.run, hcore] at hm
      rw [Nat.succ_add]
      exact run_succ hstep (ih hm)
    | fault r =>
      have hcore : core.step s = .fault r := hstep
      simp [Host.Core.run, hcore] at hm
    | refused r =>
      have hcore : core.step s = .refused r := hstep
      simp [Host.Core.run, hcore] at hm

/-! ### What an action sends -/

/-- The unit that an action sends where the buffer gives the transfer the bytes `bs`: none for WAITONLY. -/
def sentBy (bs : List Byte) : Action → List (Byte × List Byte)
  | .unit _ u => [(u.cmd, u.data)]
  | .waitOnly => []
  | .xfer => [(0x24#8, bs)]

/-- The action sends what `sentBy` says: the unit of its row's own rule is the one it carries, and the transfer fits and
reads `bs` (42_command_protocol.md R150, R156). -/
def Sendable (bs : List Byte) (s : State) : Action → Prop
  | .unit row u => rowUnit row s = u
  | .waitOnly => True
  | .xfer => transferBytes s.cfg.w s.cfg.h ≤ s.fb.cap.toNat / 8 ∧
      s.fb.asBytes (transferBytes s.cfg.w s.cfg.h) = .ok bs

theorem rowUnit_framed (row : UnitRow) (s : State) : rowUnit row (framed s) = rowUnit row s := by
  cases row <;> rfl

/-- What an action sends depends on nothing that a unit's step writes. -/
theorem Sendable.of_framed {bs : List Byte} {s t : State} {a : Action} (h : Sendable bs s a)
    (hframe : framed t = framed s) : Sendable bs t a := by
  have hblank (v : State) : Sendable bs (framed v) a ↔ Sendable bs v a := by
    cases a with
    | unit row u => simp only [Sendable, rowUnit_framed]
    | waitOnly => exact Iff.rfl
    | xfer => exact Iff.rfl
  rwa [← hblank, hframe, hblank]

/-- Where the transfer fits and reads `bs`, the XFER is an action of the unit WRITE_RAM(bs). -/
theorem xferStep_eq_unitStep {bs : List Byte} {s : State} (h : Sendable bs s .xfer) (c : Byte) :
    xferStep c s = unitStep { cmd := c, data := bs } s := by
  obtain ⟨hfit, hread⟩ := h
  unfold xferStep unitStep
  cases s.seq.phase with
  | start => exact if_neg (Nat.not_lt.mpr hfit)
  | send => simp only [hread]
  | idle | wait | resp => rfl

/-! ### One action -/

/-- A running state of an operation that no other agent disturbs, at an action that sends the unit (c, d). -/
structure Sending (c : Byte) (d : List Byte) (s : State) : Prop where
  panel : panelAlwaysOk s
  unit : ∃ bs a, currentAction s = some a ∧ Sendable bs s a ∧ sentBy bs a = [(c, d)]

theorem Sending.of_framed {c : Byte} {d : List Byte} {s t : State} (h : Sending c d s) (hframe : framed t = framed s)
    (haction : currentAction t = currentAction s) : Sending c d t := by
  obtain ⟨bs, a, hc, hs, hunit⟩ := h.unit
  refine ⟨?_, bs, a, haction.trans hc, hs.of_framed hframe, hunit⟩
  have hpanel : panelAlwaysOk (framed t) := hframe ▸ h.panel
  exact hpanel

theorem Sending.step_eq {c : Byte} {d : List Byte} {s : State} (h : Sending c d s) (hp : s.seq.phase ≠ .idle) :
    step s = unitStep { cmd := c, data := d } s := by
  obtain ⟨bs, a, hc, hs, hunit⟩ := h.unit
  obtain ⟨hm, -, -⟩ := h.panel
  rw [step_nil hm]
  cases a with
  | unit row u =>
    cases hunit
    rw [sequencer_unit hp hc, exec_rowInstr, hs]
  | waitOnly => cases hunit
  | xfer =>
    cases hunit
    exact (sequencer_xfer hp hc).trans (xferStep_eq_unitStep hs 0x24#8)

/-- From its START an action sends its unit in four steps (42_command_protocol.md R151 to R154). -/
theorem Sending.run {c : Byte} {d : List Byte} {s : State} (h : Sending c d s) (hp : s.seq.phase = .start) :
    Host.Core.run core 4 s =
      .next (advance (answered .ok (sendUnit { cmd := c, data := d } (setPhase .send s)))) := by
  obtain ⟨-, hbusy, hresp⟩ := h.panel
  have hstart : step s = .next (setPhase .wait s) := by
    rw [h.step_eq (by simp [hp])]
    simp only [unitStep, hp]
  have hwait : step (setPhase .wait s) = .next (setPhase .send s) := by
    rw [(h.of_framed (t := setPhase .wait s) rfl rfl).step_eq (by simp)]
    simp only [unitStep, setPhase_seq, poll, setPhase_port, hbusy, if_true]
    rfl
  have hsend : step (setPhase .send s) = .next (sendUnit { cmd := c, data := d } (setPhase .send s)) :=
    (h.of_framed (t := setPhase .send s) rfl rfl).step_eq (by simp)
  have hanswer : step (sendUnit { cmd := c, data := d } (setPhase .send s)) =
      .next (advance (answered .ok (sendUnit { cmd := c, data := d } (setPhase .send s)))) := by
    rw [(h.of_framed (t := sendUnit { cmd := c, data := d } (setPhase .send s)) rfl rfl).step_eq (by simp)]
    simp only [unitStep, sendUnit_seq, takeAnswer, sendUnit_port, setPhase_port, hresp]
  exact run_succ hstart (run_succ hwait (run_succ hsend (run_succ hanswer rfl)))

/-- From its START a WAITONLY advances in two steps (42_command_protocol.md R155). -/
theorem run_waitOnly {s : State} (hpanel : panelAlwaysOk s) (hp : s.seq.phase = .start)
    (hc : currentAction s = some .waitOnly) : Host.Core.run core 2 s = .next (advance (setPhase .wait s)) := by
  obtain ⟨hm, hbusy, -⟩ := hpanel
  have hstep {t : State} (hm : t.moves = []) (hp : t.seq.phase ≠ .idle) (hc : currentAction t = some .waitOnly) :
      step t = .next (waitOnlyStep t) := by
    simp only [step_nil hm, sequencer, hp, if_false, hc]
  have hstart : step s = .next (setPhase .wait s) := by
    rw [hstep hm (by simp [hp]) hc, waitOnlyStep, hp]
  have hwait : step (setPhase .wait s) = .next (advance (setPhase .wait s)) := by
    rw [hstep (t := setPhase .wait s) hm (by simp) hc]
    simp only [waitOnlyStep, setPhase_seq, poll, setPhase_port, hbusy, if_true]
  exact run_succ hstart (run_succ hwait rfl)

/-! ### A list of actions -/

/-- Where an operation with STATUS `st` is when some actions are still to run: at its end with OK, or at the START of
the first of them. -/
inductive Position (st : Status) (s : State) : List Action → Prop
  | ended (status : s.status = st.completed .ok) : Position st s []
  | atStart {a : Action} {rest : List Action} (status : s.status = st) (phase : s.seq.phase = .start)
      (todo : s.seq.acts.drop s.seq.step.toNat = a :: rest) (short : s.seq.acts.length ≤ 18) :
      Position st s (a :: rest)

/-- `advance` goes on to the next of the actions, or ends after the last of them (42_command_protocol.md R154). -/
theorem Position.of_advance {st : Status} {s : State} {a : Action} {rest : List Action} (status : s.status = st)
    (todo : s.seq.acts.drop s.seq.step.toNat = a :: rest) (short : s.seq.acts.length ≤ 18) :
    Position st (advance s) rest := by
  have hlen : s.seq.acts.length - s.seq.step.toNat = rest.length + 1 := by
    rw [← List.length_drop, todo, List.length_cons]
  have hnext : s.seq.acts.drop (s.seq.step.toNat + 1) = rest := by
    rw [← List.tail_drop, todo, List.tail_cons]
  rw [advance_eq s (by omega)]
  cases rest with
  | nil =>
    rw [List.length_nil] at hlen
    rw [if_pos (by omega)]
    exact .ended (by rw [complete_status, status])
  | cons b rest =>
    rw [List.length_cons] at hlen
    have hstep : (s.seq.step + 1#5).toNat = s.seq.step.toNat + 1 := by
      rw [BitVec.toNat_add, BitVec.toNat_ofNat]
      omega
    rw [if_neg (by omega)]
    exact .atStart status rfl (by rw [hstep, hnext]) short

/-- The operation that started as `s₀` has sent `us`, all answered OK, and `rest` is still to run. -/
structure Reached (s₀ : State) (us : List (Byte × List Byte)) (rest : List Action) (s : State) : Prop where
  frame : framed s = framed s₀
  trace : s.trace = s₀.trace ++ allOk us
  position : Position s₀.status s rest

/-- The steps of an action from its START, with a panel that is never busy and answers at once. -/
def okSteps : Action → Nat
  | .unit _ _ => 4
  | .waitOnly => 2
  | .xfer => 4

theorem currentAction_of_drop {s : State} {a : Action} {rest : List Action}
    (h : s.seq.acts.drop s.seq.step.toNat = a :: rest) : currentAction s = some a := by
  rw [currentAction, ← List.head?_drop, h, List.head?_cons]

section
variable {s₀ : State} (hpanel : panelAlwaysOk s₀) {bs : List Byte}
include hpanel

theorem Reached.panel {s : State} {us : List (Byte × List Byte)} {rest : List Action} (h : Reached s₀ us rest s) :
    panelAlwaysOk s := by
  have hframed : panelAlwaysOk (framed s) := h.frame ▸ hpanel
  exact hframed

/-- One action runs to the next one. -/
theorem Reached.run_action {us : List (Byte × List Byte)} {a : Action} {rest : List Action} {s : State}
    (h : Reached s₀ us (a :: rest) s) (hs : Sendable bs s₀ a) :
    ∃ t : State, Host.Core.run core (okSteps a) s = .next t ∧ Reached s₀ (us ++ sentBy bs a) rest t := by
  obtain ⟨hframe, htrace, hposition⟩ := h
  cases hposition with
  | atStart status phase todo short =>
    have hc := currentAction_of_drop todo
    have hok := Reached.panel hpanel ⟨hframe, htrace, .atStart status phase todo short⟩
    have sending {c : Byte} {d : List Byte} (hunit : sentBy bs a = [(c, d)]) :
        ∃ t : State, Host.Core.run core 4 s = .next t ∧ Reached s₀ (us ++ sentBy bs a) rest t := by
      refine ⟨_, Sending.run ⟨hok, bs, a, hc, hs.of_framed hframe, hunit⟩ phase, ?_, ?_, .of_advance status todo short⟩
      · rw [framed_advance]
        exact hframe
      · simp [htrace, hunit, allOk]
    cases a with
    | unit row u => exact sending rfl
    | xfer => exact sending rfl
    | waitOnly =>
      refine ⟨_, run_waitOnly hok phase hc, ?_, ?_, .of_advance status todo short⟩
      · rw [framed_advance]
        exact hframe
      · simp [htrace, sentBy]

/-- The actions `todo` run one after the other. -/
theorem Reached.run_actions {todo rest : List Action} {us : List (Byte × List Byte)} {s : State}
    (h : Reached s₀ us (todo ++ rest) s) (hs : ∀ a ∈ todo, Sendable bs s₀ a) :
    ∃ t : State, Host.Core.run core (todo.map okSteps).sum s = .next t ∧
      Reached s₀ (us ++ todo.flatMap (sentBy bs)) rest t := by
  induction todo generalizing us s with
  | nil => exact ⟨s, rfl, by simpa using h⟩
  | cons a todo ih =>
    obtain ⟨v, hrun, hv⟩ := h.run_action hpanel (hs a (by simp))
    obtain ⟨t, hruns, ht⟩ := ih hv (fun b hb => hs b (by simp [hb]))
    refine ⟨t, ?_, by simpa using ht⟩
    rw [List.map_cons, List.sum_cons]
    exact run_add hrun hruns

end

/-! ### A whole operation -/

/-- An operation that has started is at the START of its first action. -/
theorem Reached.of_started {op : BitVec 3} {m : Mode} {acts : List Action} {s : State} (hne : acts ≠ [])
    (hlen : acts.length ≤ 18) : Reached (started op m acts s) [] acts (started op m acts s) := by
  refine ⟨rfl, (List.append_nil _).symm, ?_⟩
  cases acts with
  | nil => exact absurd rfl hne
  | cons a rest => exact .atStart rfl rfl rfl hlen

/-- An operation of `s` has ended in `u` with a code, after it sent `us` with every one answered OK. -/
def Ended (s : State) (us : List (Byte × List Byte)) (code : BitVec 4) (u : State) : Prop :=
  u.trace = s.trace ++ allOk us ∧
  u.status = { s.status with ready := true, wc := false, cl := false, code := code } ∧ u.fb = s.fb ∧ u.cfg = s.cfg

section
variable {s : State} {op : BitVec 3} {m : Mode} {acts : List Action}

/-- The start of an operation writes only STATUS and SEQ. -/
theorem panelAlwaysOk_started (h : panelAlwaysOk s) : panelAlwaysOk (started op m acts (cleared s)) := h

/-- The last step of an operation ends it from the state that the operation has reached. -/
theorem Ended.of_reached {us : List (Byte × List Byte)} {rest : List Action} {t u : State} {c : ResultCode}
    (h : Reached (started op m acts (cleared s)) us rest t) (hframe : framed u = framed t) (htrace : u.trace = t.trace)
    (hstatus : u.status = (started op m acts (cleared s)).status.completed c) : Ended s us c.bits u := by
  have hframe := hframe.trans h.frame
  have hfb : u.fb = (started op m acts (cleared s)).fb := congrArg (·.fb) hframe
  have hcfg : u.cfg = (started op m acts (cleared s)).cfg := congrArg (·.cfg) hframe
  exact ⟨htrace.trans h.trace, hstatus, hfb, hcfg⟩

/-- An accepted operation whose actions all send runs to its end with OK. -/
theorem run_operation {bs : List Byte} (hpanel : panelAlwaysOk s) (hne : acts ≠ []) (hlen : acts.length ≤ 18)
    (hs : ∀ a ∈ acts, Sendable bs (started op m acts (cleared s)) a) :
    ∃ u : State, Host.Core.run core (acts.map okSteps).sum (started op m acts (cleared s)) = .next u ∧
      Ended s (acts.flatMap (sentBy bs)) 0#4 u := by
  have hstart : Reached (started op m acts (cleared s)) [] (acts ++ []) (started op m acts (cleared s)) := by
    rw [List.append_nil]
    exact .of_started hne hlen
  obtain ⟨u, hrun, hu⟩ := hstart.run_actions (panelAlwaysOk_started hpanel) hs
  cases hu.position with
  | ended status => exact ⟨u, hrun, .of_reached (c := .ok) hu rfl rfl status⟩

/-- An accepted operation that comes to a transfer of more bytes than the buffer has ends there with BufferOverrun
(42_command_protocol.md R151, R157). -/
theorem run_operation_overrun {bs : List Byte} {before after : List Action} (hpanel : panelAlwaysOk s)
    (hacts : acts = before ++ .xfer :: after) (hlen : acts.length ≤ 18)
    (hs : ∀ a ∈ before, Sendable bs (started op m acts (cleared s)) a)
    (hover : transferBytes s.cfg.w s.cfg.h > s.fb.cap.toNat / 8) :
    ∃ u : State, Host.Core.run core ((before.map okSteps).sum + 1) (started op m acts (cleared s)) = .next u ∧
      Ended s (before.flatMap (sentBy bs)) 5#4 u := by
  have hpanel' : panelAlwaysOk (started op m acts (cleared s)) := panelAlwaysOk_started hpanel
  have hstart : Reached (started op m acts (cleared s)) [] (before ++ .xfer :: after)
      (started op m acts (cleared s)) := by
    rw [← hacts]
    exact .of_started (by simp [hacts]) hlen
  obtain ⟨t, hrun, ht⟩ := hstart.run_actions hpanel' hs
  have hfb : t.fb = s.fb := congrArg (·.fb) ht.frame
  have hcfg : t.cfg = s.cfg := congrArg (·.cfg) ht.frame
  obtain ⟨hm, -, -⟩ := ht.panel hpanel'
  cases ht.position with
  | atStart status phase todo short =>
    have hstep : step t = .next (complete .bufferOverrun t) := by
      rw [step_nil hm, sequencer_xfer (by simp [phase]) (currentAction_of_drop todo)]
      change xferStep 0x24#8 t = _
      rw [← hcfg, ← hfb] at hover
      simp only [xferStep, phase, if_pos hover]
    have hstatus : (complete .bufferOverrun t).status =
        (started op m acts (cleared s)).status.completed .bufferOverrun := by rw [complete_status, status]
    exact ⟨_, run_add hrun (run_succ hstep rfl), .of_reached (c := .bufferOverrun) ht rfl rfl hstatus⟩

end

/-! ### The lists carry the units of their rows -/

theorem initActs_sendable (bs : List Byte) (s : State) : ∀ a ∈ initActs s.rom, Sendable bs s a := by
  simp only [initActs, List.forall_mem_cons]
  exact ⟨rfl, rfl, rfl, rfl, rfl, rfl, by simp⟩

theorem ponActs_sendable (bs : List Byte) (s : State) : ∀ a ∈ ponActs s.rom, Sendable bs s a := by
  simp only [ponActs, List.forall_mem_cons]
  exact ⟨rfl, rfl, trivial, by simp⟩

theorem poffActs_sendable (bs : List Byte) (s : State) : ∀ a ∈ poffActs s.rom, Sendable bs s a := by
  simp only [poffActs, List.forall_mem_cons]
  exact ⟨rfl, rfl, rfl, rfl, by simp⟩

/-- Settles O56: the actions of the two lists send the units of their rows. -/
theorem powerOperationsRun : Obligations.PowerOperationsRun := by
  intro s hpanel hr
  obtain ⟨hpwron, hpwroff⟩ := powerOperationsStart s hr
  constructor
  · obtain ⟨u, hrun, hend⟩ := run_operation hpanel (by simp [ponActs]) (by simp [ponActs])
      (ponActs_sendable [] (started 4#3 s.seq.mode (ponActs s.rom) (cleared s)))
    exact ⟨_, u, hpwron, hrun, hend⟩
  · obtain ⟨u, hrun, hend⟩ := run_operation hpanel (by simp [poffActs]) (by simp [poffActs])
      (poffActs_sendable [] (started 5#3 s.seq.mode (poffActs s.rom) (cleared s)))
    exact ⟨_, u, hpwroff, hrun, hend⟩

/-! ### A flush -/

/-- The addressing actions of a mode: the pointer alone in Full mode, the window and the pointer in Partial mode
(42_command_protocol.md R167, R168). -/
def addressActs (m : Mode) (w h : BitVec 8) : List Action :=
  match m with
  | .full => ptrActs (lastColumn w) (lastRowLow h) (lastRowHigh h)
  | .partial_ => windowActs 0x00#8 (lastColumn w) 0x00#8 0x00#8 (lastRowLow h) (lastRowHigh h) ++
      ptrActs 0x00#8 0x00#8 0x00#8

/-- The actions of a flush before its transfer. -/
def flushHead (rom : Rom) (m : Mode) (w h : BitVec 8) : List Action :=
  initActs rom ++ [lutAct rom m] ++ ponActs rom ++ addressActs m w h

theorem flushActs_eq (rom : Rom) (m : Mode) (w h : BitVec 8) :
    flushActs rom m w h = flushHead rom m w h ++ .xfer :: updateActs m := by
  cases m <;> rfl

theorem flushActs_length_le (rom : Rom) (m : Mode) (w h : BitVec 8) : (flushActs rom m w h).length ≤ 18 := by
  cases m <;> exact Nat.le_of_ble_eq_true rfl

theorem addressActs_sendable (bs : List Byte) (s : State) :
    ∀ a ∈ addressActs s.seq.mode s.cfg.w s.cfg.h, Sendable bs s a := by
  cases hm : s.seq.mode <;>
    simp [addressActs, ptrActs, windowActs, act, Sendable, rowUnit, unitRamXwin, unitRamYwin, unitRamXptr, unitRamYptr,
      xPointer, yPointer, hm]

theorem flushHead_sendable (bs : List Byte) (s : State) :
    ∀ a ∈ flushHead s.rom s.seq.mode s.cfg.w s.cfg.h, Sendable bs s a := by
  have hlut : Sendable bs s (lutAct s.rom s.seq.mode) := rfl
  simp only [flushHead, List.forall_mem_append, List.forall_mem_singleton]
  exact ⟨⟨⟨initActs_sendable bs s, hlut⟩, ponActs_sendable bs s⟩, addressActs_sendable bs s⟩

theorem updateActs_sendable (bs : List Byte) (s : State) : ∀ a ∈ updateActs s.seq.mode, Sendable bs s a := by
  simp only [updateActs, List.forall_mem_cons]
  exact ⟨rfl, rfl, rfl, by simp⟩

/-- The state in which a FLUSH of a mode has been accepted (41_panel_controller.md R125). -/
def flushing (m : Mode) (s : State) : State :=
  started 3#3 m (flushActs s.rom m s.cfg.w s.cfg.h) (cleared s)

/-- A flush of whole-byte rows with the panel answering OK: the units of its list, with the whole buffer. -/
theorem run_flush {s : State} (h : BlockInv s) (hpanel : panelAlwaysOk s) (hc : s.cfg.configured = true)
    (h8 : s.cfg.w.toNat % 8 = 0) (m : Mode) :
    ∃ (u : State) (bs : List Byte),
      Host.Core.run core ((flushActs s.rom m s.cfg.w s.cfg.h).map okSteps).sum (flushing m s) = .next u ∧
      s.fb.asBytes (s.fb.cap.toNat / 8) = .ok bs ∧
      Ended s ((flushActs s.rom m s.cfg.w s.cfg.h).flatMap (sentBy bs)) 0#4 u := by
  obtain ⟨hcap, -, -⟩ := h.configured_size hc
  have hsize : transferBytes s.cfg.w s.cfg.h = s.fb.cap.toNat / 8 := by rw [transferBytes_of_aligned h8, hcap]
  obtain ⟨bs, hread, -, -⟩ := asBytes_of_le h.fb (le_refl (s.fb.cap.toNat / 8))
  have hxfer : Sendable bs (flushing m s) .xfer := ⟨hsize.le, hsize ▸ hread⟩
  have hs : ∀ a ∈ flushActs s.rom m s.cfg.w s.cfg.h, Sendable bs (flushing m s) a := by
    rw [flushActs_eq, List.forall_mem_append, List.forall_mem_cons]
    exact ⟨flushHead_sendable bs (flushing m s), hxfer, updateActs_sendable bs (flushing m s)⟩
  obtain ⟨u, hrun, hend⟩ := run_operation hpanel (by simp [flushActs_eq]) (flushActs_length_le _ _ _ _) hs
  exact ⟨u, bs, hrun, hread, hend⟩

/-- A flush of rows that are no whole bytes, with the panel answering OK: the units before its transfer, then
BufferOverrun. -/
theorem run_flush_overrun {s : State} (h : BlockInv s) (hpanel : panelAlwaysOk s) (hc : s.cfg.configured = true)
    (h8 : s.cfg.w.toNat % 8 ≠ 0) (m : Mode) :
    ∃ u : State,
      Host.Core.run core (((flushHead s.rom m s.cfg.w s.cfg.h).map okSteps).sum + 1) (flushing m s) = .next u ∧
      Ended s ((flushHead s.rom m s.cfg.w s.cfg.h).flatMap (sentBy [])) 5#4 u := by
  obtain ⟨hcap, -, hh⟩ := h.configured_size hc
  have hover : transferBytes s.cfg.w s.cfg.h > s.fb.cap.toNat / 8 := hcap ▸ area_div_lt_transferBytes h8 hh
  exact run_operation_overrun hpanel (flushActs_eq _ _ _ _) (flushActs_length_le _ _ _ _)
    (flushHead_sendable [] (flushing m s)) hover

/-! ### The steps of a flush -/

theorem flushHead_full_steps (r : Rom) (w h : BitVec 8) : ((flushHead r .full w h).map okSteps).sum = 46 := by
  simp [flushHead, initActs, lutAct, ponActs, addressActs, ptrActs, act, okSteps]

theorem flushHead_partial_steps (r : Rom) (w h : BitVec 8) : ((flushHead r .partial_ w h).map okSteps).sum = 54 := by
  simp [flushHead, initActs, lutAct, ponActs, addressActs, windowActs, ptrActs, act, okSteps]

/-- The transfer and the three units after it. -/
theorem flushActs_steps (r : Rom) (m : Mode) (w h : BitVec 8) :
    ((flushActs r m w h).map okSteps).sum = ((flushHead r m w h).map okSteps).sum + 16 := by
  simp [flushActs_eq, updateActs, act, okSteps]

/-! ### The units of a flush -/

theorem lastColumn_of_aligned {w : BitVec 8} (h8 : w.toNat % 8 = 0) :
    lastColumn w = BitVec.ofNat 8 (w.toNat / 8 - 1) := by
  rw [lastColumn, lo8_eq_ofNat, rowBytes_of_aligned h8]

theorem lastColumn_of_unaligned {w : BitVec 8} (h8 : w.toNat % 8 ≠ 0) :
    lastColumn w = BitVec.ofNat 8 (w.toNat / 8) := by
  rw [lastColumn, lo8_eq_ofNat, rowBytes_of_unaligned h8, Nat.add_sub_cancel]

theorem flushHead_full_units (bs : List Byte) (r : Rom) (w h : BitVec 8) :
    (flushHead r .full w h).flatMap (sentBy bs) = initUnits r ++
      [(r.lutCmd, r.lutFull.toList), (r.ponCmd, r.ponData), (r.actCmd, r.actData), (0x4E#8, [lastColumn w]),
        (0x4F#8, [BitVec.ofNat 8 (h.toNat - 1), 0x00#8])] := by
  rw [flushHead, addressActs, lastRowHigh_eq_zero, lastRowLow_eq]
  rfl

theorem flushHead_partial_units (bs : List Byte) (r : Rom) (w h : BitVec 8) :
    (flushHead r .partial_ w h).flatMap (sentBy bs) = initUnits r ++
      [(r.lutCmd, r.lutPartial.toList), (r.ponCmd, r.ponData), (r.actCmd, r.actData),
        (0x44#8, [0x00#8, lastColumn w]), (0x45#8, [0x00#8, 0x00#8, BitVec.ofNat 8 (h.toNat - 1), 0x00#8]),
        (0x4E#8, [0x00#8]), (0x4F#8, [0x00#8, 0x00#8])] := by
  rw [flushHead, addressActs, lastRowHigh_eq_zero, lastRowLow_eq]
  rfl

theorem flushActs_units (bs : List Byte) (r : Rom) (m : Mode) (w h : BitVec 8) :
    (flushActs r m w h).flatMap (sentBy bs) = (flushHead r m w h).flatMap (sentBy bs) ++
      [(0x24#8, bs), (0x22#8, [updateCode m]), (0x20#8, []), (0xFF#8, [])] := by
  rw [flushActs_eq, List.flatMap_append]
  rfl

/-- Settles O57: the list of the Full mode has 15 units and one WAITONLY. -/
theorem fullFlushRuns : Obligations.FullFlushRuns := by
  intro s h hpanel hr hc h8
  obtain ⟨hstart, -⟩ := (flushStarts s hr).2 hc
  obtain ⟨u, bs, hrun, hread, hend⟩ := run_flush h hpanel hc h8 .full
  rw [flushActs_steps, flushHead_full_steps] at hrun
  rw [flushActs_units, flushHead_full_units, lastColumn_of_aligned h8, List.append_assoc] at hend
  exact ⟨_, u, bs, hstart, hrun, hread, hend⟩

/-- Settles O58: the list of the Partial mode has 17 units and one WAITONLY. -/
theorem partialFlushRuns : Obligations.PartialFlushRuns := by
  intro s h hpanel hr hc h8
  obtain ⟨-, hstart⟩ := (flushStarts s hr).2 hc
  obtain ⟨u, bs, hrun, hread, hend⟩ := run_flush h hpanel hc h8 .partial_
  rw [flushActs_steps, flushHead_partial_steps] at hrun
  rw [flushActs_units, flushHead_partial_units, lastColumn_of_aligned h8, List.append_assoc] at hend
  exact ⟨_, u, bs, hstart, hrun, hread, hend⟩

/-- Settles O59: the transfer's START finds more bytes to send than the buffer has. -/
theorem unalignedFlushOverruns : Obligations.UnalignedFlushOverruns := by
  intro s h hpanel hr hc h8
  obtain ⟨hfull, hpartial⟩ := (flushStarts s hr).2 hc
  constructor
  · obtain ⟨u, hrun, hend⟩ := run_flush_overrun h hpanel hc h8 .full
    rw [flushHead_full_steps] at hrun
    rw [flushHead_full_units, lastColumn_of_unaligned h8] at hend
    exact ⟨_, u, hfull, hrun, hend⟩
  · obtain ⟨u, hrun, hend⟩ := run_flush_overrun h hpanel hc h8 .partial_
    rw [flushHead_partial_steps] at hrun
    rw [flushHead_partial_units, lastColumn_of_unaligned h8] at hend
    exact ⟨_, u, hpartial, hrun, hend⟩

end Sys2Proof.Machine
end

section
/-! The command protocol engine by PHASE (42_command_protocol.md R151 to R157, R191), and the units that the action lists
carry (R158 to R190). -/

namespace Sys2Proof.Machine

open Sys2Proof.Expected

/-! ### START -/

/-- Every unit but WRITE_RAM begins with a wait (42_command_protocol.md R151). -/
theorem exec_rowInstr_start {s : State} (hp : s.seq.phase = .start) (row : UnitRow) :
    exec (rowInstr row) s = .next (inPhase .wait s) := by
  rw [exec_rowInstr, unitStep, hp]
  rfl

/-- WRITE_RAM begins with a wait, or overruns (42_command_protocol.md R151). -/
theorem exec_writeRam_start {s : State} (hp : s.seq.phase = .start) :
    exec .writeRam s =
      .next (if transferBytes s.cfg.w s.cfg.h > s.fb.cap.toNat / 8 then finished 5#4 s else inPhase .wait s) := by
  change xferStep 0x24#8 s = _
  rw [xferStep, hp]
  by_cases hover : transferBytes s.cfg.w s.cfg.h > s.fb.cap.toNat / 8
  · simp only [if_pos hover]
    rfl
  · simp only [if_neg hover]
    rfl

/-- Settles O43: the START of a unit, of a WAITONLY and of the XFER. -/
theorem startBeginsWithAWait : Obligations.StartBeginsWithAWait := by
  intro s hp
  refine ⟨exec_rowInstr_start hp, ?_, exec_writeRam_start hp⟩
  rw [waitOnlyStep, hp]
  rfl

/-- In a configured block the transfer exceeds the buffer exactly when a row is no whole bytes (42_command_protocol.md
R157). -/
theorem BlockInv.overruns_iff {s : State} (h : BlockInv s) (hc : s.cfg.configured = true) :
    transferBytes s.cfg.w s.cfg.h > s.fb.cap.toNat / 8 ↔ s.cfg.w.toNat % 8 ≠ 0 := by
  obtain ⟨hcap, -, hh⟩ := h.configured_size hc
  rw [hcap]
  refine ⟨fun hover h8 => ?_, fun h8 => area_div_lt_transferBytes h8 hh⟩
  rw [transferBytes_of_aligned h8] at hover
  exact Nat.lt_irrefl _ hover

/-- Settles O41: a last byte that a row only begins is sent whole, so that only whole rows fit. -/
theorem overrunLaw : Obligations.OverrunLaw := by
  intro s h hc
  obtain ⟨hcap, -, -⟩ := h.configured_size hc
  refine ⟨h.overruns_iff hc, fun h8 => ?_, fun hp => ?_⟩
  · rw [transferBytes_of_aligned h8, hcap]
  · rw [exec_writeRam_start hp]
    exact congrArg Host.Outcome.next (if_congr (h.overruns_iff hc) rfl rfl)

/-! ### WAIT -/

/-- In WAIT every unit polls, WRITE_RAM included (42_command_protocol.md R152). -/
theorem exec_unit_wait {i : Instr} {s : State} (hi : isUnit i) (hp : s.seq.phase = .wait) :
    exec i s = .next (poll (setPhase .send) s) := by
  rcases hi with rfl | ⟨row, rfl⟩
  · change xferStep 0x24#8 s = _
    rw [xferStep, hp]
  · rw [exec_rowInstr, unitStep, hp]

/-- Settles O44: `poll` of a unit, with its two updates written out. -/
theorem waitPolls : Obligations.WaitPolls := fun _ _ hp hi => exec_unit_wait hi hp

/-- A poll holds while BUSY is 1 and CANCEL is 0 (42_command_protocol.md R152, R191). -/
theorem poll_of_held {s : State} (hbusy : s.port.busy = true) (hcancel : s.cancel = false) (proceed : State → State) :
    poll proceed s = s := by
  rw [poll_busy hbusy, if_neg (by simp [hcancel])]

/-- A poll that does not hold goes on, with WC set if BUSY was 1 (42_command_protocol.md R152). -/
theorem poll_of_lifted {s : State} (h : s.port.busy = false ∨ s.cancel = true) (proceed : State → State) :
    poll proceed s = proceed { s with status := { s.status with wc := s.status.wc || s.port.busy } } := by
  rcases poll_cases proceed s with ⟨hfree, e⟩ | ⟨hbusy, -, e⟩ | ⟨hbusy, hcancel, -⟩
  · rw [e, hfree, Bool.or_false]
  · rw [e, hbusy, Bool.or_true]
    rfl
  · simp [hbusy, hcancel] at h

theorem sequencer_waitOnly {s : State} (hp : s.seq.phase = .wait) (hc : currentAction s = some .waitOnly) :
    sequencer s = .next (poll advance s) := by
  simp only [sequencer, hp, reduceCtorEq, if_false, hc, waitOnlyStep]

/-- What a running operation is does not depend on STATUS. -/
theorem Running.of_status {s : State} (h : Running s) (st : Status) : Running { s with status := st } := { h with }

/-- Settles O45: the poll holds, or `advance` goes on from it. -/
theorem waitOnlyAdvances : Obligations.WaitOnlyAdvances := by
  intro s h hm hp hc
  rw [step_nil hm, sequencer_waitOnly hp hc]
  refine ⟨fun hbusy hcancel => ?_, fun hlift => ?_⟩
  · rw [poll_of_held hbusy hcancel]
  · rw [poll_of_lifted hlift, ((h.running (by simp [hp])).of_status _).advance_or_end]
    rfl

/-! ### SEND -/

/-- Settles O46: each unit is the one of its row. -/
theorem initUnitsSend : Obligations.InitUnitsSend := fun _ hp =>
  ⟨exec_rowInstr_send hp .init01 rfl, exec_rowInstr_send hp .init0C rfl, exec_rowInstr_send hp .init2C rfl,
    exec_rowInstr_send hp .init3A rfl, exec_rowInstr_send hp .init3B rfl, exec_rowInstr_send hp .init11 rfl⟩

/-- A table has 29 bytes (00_scope.md R8). -/
theorem length_lutOf (rom : Rom) (m : Mode) : (lutOf rom m).length = 29 := by
  cases m
  · exact rom.lutFull.length_toList
  · exact rom.lutPartial.length_toList

/-- Settles O47: each unit is the one of its row, and MODE chooses the table of LUT and the byte of UPDATE. -/
theorem modeAndPowerUnitsSend : Obligations.ModeAndPowerUnitsSend := by
  intro s hp
  have hupdate {m : Mode} (hmode : s.seq.mode = m) :
      exec .update s = .next (presented 0x22#8 [updateCode m] s) :=
    exec_rowInstr_send hp .update (by rw [← hmode]; rfl)
  refine ⟨⟨lutOf s.rom s.seq.mode, length_lutOf _ _, exec_rowInstr_send hp .lut rfl, fun hmode => ?_, fun hmode => ?_⟩,
    exec_rowInstr_send hp .pon rfl, exec_rowInstr_send hp .act rfl, hupdate, hupdate,
    exec_rowInstr_send hp .sync20 rfl, exec_rowInstr_send hp .syncFF rfl⟩
  · rw [hmode, lutOf]
  · rw [hmode, lutOf]

/-- Settles O49: each unit is the one of its row. -/
theorem powerOffUnitsSend : Obligations.PowerOffUnitsSend := fun _ hp =>
  ⟨exec_rowInstr_send hp .poff12 rfl, exec_rowInstr_send hp .poff82 rfl, exec_rowInstr_send hp .poff01 rfl,
    exec_rowInstr_send hp .poff02 rfl⟩

/-! ### The action lists -/

/-- Settles O42: the lists, with the bytes of an address computed. -/
theorem flushListsWrittenOut : Obligations.FlushListsWrittenOut := by
  intro r w h
  simp only [← lastColumn_eq, ← lastRowLow_eq, fullActs, partialActs, lastRowHigh_eq_zero]
  exact ⟨rfl, rfl⟩

/-- The list of a known OP carries the unit of each row's own rule (42_command_protocol.md R150). -/
theorem rowUnit_of_mem_actsOf {s : State} {row : UnitRow} {u : PanelUnit}
    (hop : s.seq.op = 3#3 ∨ s.seq.op = 4#3 ∨ s.seq.op = 5#3) (hmem : .unit row u ∈ actsOf s) : rowUnit row s = u := by
  change Sendable [] s (.unit row u)
  rcases hop with e | e | e <;> simp only [actsOf, e] at hmem
  · change .unit row u ∈ flushActs s.rom s.seq.mode s.cfg.w s.cfg.h at hmem
    rw [flushActs_eq, List.mem_append, List.mem_cons] at hmem
    rcases hmem with hhead | hxfer | hupdate
    · exact flushHead_sendable [] s _ hhead
    · cases hxfer
    · exact updateActs_sendable [] s _ hupdate
  · exact ponActs_sendable [] s _ hmem
  · exact poffActs_sendable [] s _ hmem

/-- In a running operation the unit (c, d) of ACTS[STEP] is the one that its row's own rule gives. -/
theorem Running.rowUnit_eq {s : State} {row : UnitRow} {u : PanelUnit} (h : Running s)
    (hc : currentAction s = some (.unit row u)) : rowUnit row s = u := by
  have hmem : .unit row u ∈ s.seq.acts := List.mem_of_getElem? hc
  rw [h.acts_built] at hmem
  exact rowUnit_of_mem_actsOf h.op_known hmem

/-- Settles O52: the row's own rule gives the unit of ACTS[STEP], and an XFER that is past its START fits. -/
theorem sendPresentsTheCurrentAction : Obligations.SendPresentsTheCurrentAction := by
  intro s h hm hp
  have hidle : s.seq.phase ≠ .idle := by simp [hp]
  have hrun := h.running hidle
  rw [step_nil hm]
  refine ⟨fun row u hc => ?_, fun hc => ?_⟩
  · rw [sequencer_unit hidle hc]
    exact exec_rowInstr_send hp row (hrun.rowUnit_eq hc)
  · obtain ⟨d, hread, hlen, -⟩ := asBytes_of_le h.fb (hrun.transfer_fits (by simp [hp]) hc)
    refine ⟨d, hread, hlen, ?_⟩
    rw [sequencer_xfer hidle hc]
    exact xferStep_send hp hread 0x24#8

/-! ### RESP -/

/-- In RESP every unit awaits the answer, WRITE_RAM included (42_command_protocol.md R154). -/
theorem exec_unit_resp {i : Instr} {s : State} (hi : isUnit i) (hp : s.seq.phase = .resp) :
    exec i s = .next (takeAnswer s) := by
  rcases hi with rfl | ⟨row, rfl⟩
  · change xferStep 0x24#8 s = _
    rw [xferStep, hp]
  · rw [exec_rowInstr, unitStep, hp]

theorem takeAnswer_of_none {s : State} (h : s.port.resp = .none) : takeAnswer s = s := by
  rw [takeAnswer, h]

theorem takeAnswer_of_ok {s : State} (h : s.port.resp = .ok) : takeAnswer s = advance (answered .ok s) := by
  rw [takeAnswer, h]

theorem takeAnswer_of_fail {s : State} (h : s.port.resp = .fail) :
    takeAnswer s = complete .transportFailure (answered .fail s) := by
  rw [takeAnswer, h]

/-- What a running operation is does not depend on the port or the trace. -/
theorem Running.of_answered {s : State} (h : Running s) (e : PanelEvent) : Running (answered e s) := { h with }

/-- Settles O51: the answer is taken, and `advance` goes on from an OK. -/
theorem answerAdvancesOrEnds : Obligations.AnswerAdvancesOrEnds := by
  intro s i h hp hi
  rw [exec_unit_resp hi hp]
  refine ⟨fun hnone => ?_, fun hok => ?_, fun hfail => ?_⟩
  · rw [takeAnswer_of_none hnone]
  · rw [takeAnswer_of_ok hok, ((h.running (by simp [hp])).of_answered .ok).advance_or_end]
    rfl
  · rw [takeAnswer_of_fail hfail]
    rfl

/-! ### The holds -/

/-- A state that a step does not change stays, however many steps are taken. -/
theorem run_of_step_self {s : State} (h : step s = .next s) (k : Nat) : Host.Core.run core k s = .next s := by
  induction k with
  | zero => rfl
  | succ k ih => exact run_succ h ih

/-- A move of an agent, then SEQ's own step. -/
theorem run_move_seq {s t u : State} {m : Move} (hm : perform m { s with moves := [.seq] } = .next t)
    (hseq : t.moves = [.seq]) (hstep : sequencer { t with moves := [] } = .next u) :
    Host.Core.run core 2 { s with moves := [m, .seq] } = .next u :=
  run_succ ((step_cons rfl).trans hm) (run_succ (step_seq hseq hstep) rfl)

theorem advance_phase_cases (s : State) : (advance s).seq.phase = .idle ∨ (advance s).seq.phase = .start := by
  rcases advance_cases s with ⟨n, e⟩ | e <;> rw [e]
  · exact .inl rfl
  · exact .inr rfl

/-- SEQ's own step at any action but a WAITONLY is the instruction of a unit. -/
theorem sequencer_eq_exec_unit {s : State} (hp : s.seq.phase ≠ .idle) (hc : currentAction s ≠ none)
    (hw : currentAction s ≠ some .waitOnly) : ∃ i, isUnit i ∧ sequencer s = exec i s := by
  cases haction : currentAction s with
  | none => exact absurd haction hc
  | some a =>
    cases a with
    | unit row u => exact ⟨_, .inr ⟨row, rfl⟩, sequencer_unit hp haction⟩
    | waitOnly => exact absurd haction hw
    | xfer => exact ⟨_, .inl rfl, sequencer_xfer hp haction⟩

/-- In WAIT any action polls, to leave WAIT when the poll goes on. -/
theorem sequencer_wait {s : State} (hp : s.seq.phase = .wait) (hc : currentAction s ≠ none) :
    ∃ proceed : State → State, sequencer s = .next (poll proceed s) ∧ ∀ t, (proceed t).seq.phase ≠ .wait := by
  by_cases hw : currentAction s = some .waitOnly
  · refine ⟨advance, sequencer_waitOnly hp hw, fun t => ?_⟩
    rcases advance_phase_cases t with e | e <;> simp [e]
  · obtain ⟨i, hi, e⟩ := sequencer_eq_exec_unit (by simp [hp]) hc hw
    exact ⟨setPhase .send, e.trans (exec_unit_wait hi hp), fun t => by simp⟩

/-- In WAIT with BUSY 0 or CANCEL 1, SEQ's own step leaves WAIT. -/
theorem sequencer_wait_of_lifted {s : State} (hp : s.seq.phase = .wait) (hc : currentAction s ≠ none)
    (hlift : s.port.busy = false ∨ s.cancel = true) : ∃ t, sequencer s = .next t ∧ t.seq.phase ≠ .wait := by
  obtain ⟨proceed, e, hleave⟩ := sequencer_wait hp hc
  exact ⟨_, e, poll_of_lifted hlift proceed ▸ hleave _⟩

/-- In RESP a running operation awaits an answer: its action is no WAITONLY (42_command_protocol.md R155). -/
theorem sequencer_resp {s : State} (hp : s.seq.phase = .resp) (h : Running s) : sequencer s = .next (takeAnswer s) := by
  obtain ⟨i, hi, e⟩ := sequencer_eq_exec_unit (by simp [hp]) h.currentAction_ne_none (h.wait_only (.inr hp))
  exact e.trans (exec_unit_resp hi hp)

/-- An answer ends RESP (42_command_protocol.md R154). -/
theorem takeAnswer_leaves_resp {s : State} (h : s.port.resp ≠ .none) : (takeAnswer s).seq.phase ≠ .resp := by
  rcases takeAnswer_cases s with ⟨hnone, -⟩ | ⟨-, e⟩ | ⟨-, e⟩
  · exact absurd hnone h
  · rw [e]
    rcases advance_phase_cases (answered .ok s) with hphase | hphase <;> simp [hphase]
  · simp [e]

/-- In RESP with no answer a running operation holds, however many steps are taken (42_command_protocol.md R191). -/
theorem run_resp_of_none {s : State} (hm : s.moves = []) (hp : s.seq.phase = .resp) (h : Running s)
    (hnone : s.port.resp = .none) (k : Nat) : Host.Core.run core k s = .next s := by
  refine run_of_step_self ?_ k
  rw [step_nil hm, sequencer_resp hp h, takeAnswer_of_none hnone]

/-- In RESP an answer that the panel gives lifts the hold. -/
theorem run_panelResp {s : State} (hp : s.seq.phase = .resp) (h : Running s) {r : Resp} (hr : r ≠ .none) :
    ∃ t, Host.Core.run core 2 { s with moves := [.panelResp r, .seq] } = .next t ∧ t.seq.phase ≠ .resp :=
  have hrun : Running { s with port := { s.port with resp := r }, moves := [] } := { h with }
  ⟨_, run_move_seq rfl rfl (sequencer_resp hp hrun), takeAnswer_leaves_resp hr⟩

/-- Settles O55: a hold is a step that changes nothing, and each lift is the panel's or the HOST's move before SEQ's. -/
theorem holdsMayLastForEver : Obligations.HoldsMayLastForEver := by
  intro s h hm
  refine ⟨fun hp hbusy hcancel => ?_, fun hp hnone => ?_⟩
  · have hc := (h.running (by simp [hp])).currentAction_ne_none
    have hheld : step s = .next s := by
      obtain ⟨proceed, e, -⟩ := sequencer_wait hp hc
      rw [step_nil hm, e, poll_of_held hbusy hcancel]
    obtain ⟨t, hfree, ht⟩ :=
      sequencer_wait_of_lifted (s := { s with port := { s.port with busy := false }, moves := [] }) hp hc (.inl rfl)
    obtain ⟨u, hcut, hu⟩ := sequencer_wait_of_lifted (s := { s with cancel := true, moves := [] }) hp hc (.inr rfl)
    exact ⟨run_of_step_self hheld, ⟨t, run_move_seq rfl rfl hfree, ht⟩, ⟨u, run_move_seq rfl rfl hcut, hu⟩⟩
  · have hrun := h.running (by simp [hp])
    have hcancelled : Running { s with cancel := true } := { hrun with }
    exact ⟨run_resp_of_none hm hp hrun hnone, run_resp_of_none hm hp hcancelled hnone,
      run_panelResp hp hrun (by simp), run_panelResp hp hrun (by simp)⟩

end Sys2Proof.Machine
end

section
/-! The idle block (70_reset_and_hazards.md R231, R232). -/

namespace Sys2Proof.Machine

/-- SEQ has no step of its own while idle (70_reset_and_hazards.md R231). -/
theorem sequencer_idle {s : State} (hp : s.seq.phase = .idle) : sequencer s = .next s := if_pos hp

/-- With no move to come, the step is SEQ's own, and an idle SEQ leaves the block as it is (log 2). -/
theorem step_idle {s : State} (hp : s.seq.phase = .idle) (hm : s.moves = []) : step s = .next s :=
  (step_nil hm).trans (sequencer_idle hp)

/-- Settles O10: the step of an idle block changes nothing, and the state of reset is such a block. -/
theorem idleBlockWaits : Obligations.IdleBlockWaits := by
  have hwaits : ∀ (s : State) (k : Nat), s.seq.phase = .idle → s.moves = [] → Host.Core.run core k s = .next s :=
    fun _ k hp hm => run_of_step_self (step_idle hp hm) k
  exact ⟨hwaits State.reset 1 rfl rfl, hwaits⟩

end Sys2Proof.Machine
end
